-- ==== Sys2Proof/Word.lean ====
section
/-! DEFINITION. Word.lean: the widths of the machine (00_scope.md R5; 10_state.md R20): 16-bit words, 8-bit bytes, and the
4-bit fields of an instruction word (30_encoding.md R81). -/

namespace Sys2Proof

/-- A 16-bit word: a register, an address, a displacement, an immediate (20_memory.md R50). -/
abbrev Word := BitVec 16

/-- An 8-bit byte, the addressable unit (20_memory.md R50). -/
abbrev Byte := BitVec 8

/-- A 4-bit field of the first instruction word (30_encoding.md R81). -/
abbrev Nibble := BitVec 4

end Sys2Proof
end

