-- ==== Sys2Proof/Config.lean ====
section
/-! DEFINITION. Config.lean: what the spec leaves to an implementation (00_scope.md R5; 92_eei_decisions.md): the recommended
reset values, and the free values as constants without a body, of which nothing can be proved. The parameters that are arguments
of the model (PRIV_SET, MEM_PROTECT, USER_RETI_MASK) stand in Machine/Params.lean. -/

namespace Sys2Proof

/-- The exceptions an instruction raises (60_exceptions.md R201, vectors 11 to 15). Vector 10 is never raised (R202). -/
inductive Exc where
  | limitViolation
  | zeroDivide
  | privilegeViolation
  | undefinedInstruction
  | svc
deriving DecidableEq, Repr

/-- What a memory access is for: the argument `kind` of MEM_PROTECT (20_memory.md R69; 60_exceptions.md R203). -/
inductive AccessKind where
  | fetch
  | read
  | write
  | stack
  | vector
deriving DecidableEq, Repr

/-- The three kinds of shift, the argument `op` of SHIFT_FN (43_shift.md R151). SHLA and SHLL are one kind: their result register
is the same for the same operands, whatever the count (R150 (d), R153). -/
inductive ShiftOp where
  /-- SHLA and SHLL -/
  | left
  /-- SHRA -/
  | rightArith
  /-- SHRL -/
  | rightLogical
deriving DecidableEq, Repr

/-- The four condition flags (10_state.md R28). -/
inductive CondFlag where
  | v
  | c
  | s
  | z
deriving DecidableEq, Repr

/-- Width of an I/O access in bytes: 1 or 2 (20_memory.md R66). -/
inductive IoWidth where
  | byte
  | word
deriving DecidableEq, Repr

/-- One entry of the I/O history (60_exceptions.md R222): a read with its answer, or a write with the value that reaches the
port (20_memory.md R66). -/
inductive IoEvent where
  | read (port : Word) (width : IoWidth) (answer : Word)
  | write (port : Word) (width : IoWidth) (value : Word)
deriving DecidableEq, Repr

/-- RESET_PC at the value the spec recommends (70_reset_and_hazards.md R240). DESIGN CHOICE, unsafe: log 3. -/
def Config.resetPc : Word := 0xF000#16

/-- RESET_FLAG at the value the spec recommends: P = 1, all else 0 (70_reset_and_hazards.md R240). DESIGN CHOICE, unsafe:
log 3. -/
def Config.resetFlag : Word := 0x0040#16

/-- `draw_1()` of a condition flag at one step (41_arith_logic.md R130 (d)). Free, safe: log 10. -/
opaque Config.flagDraw : Nat → CondFlag → Bool

/-- `draw_8()` of an even byte of E000h..EFFFh at one access of one step (20_memory.md R61). Free, safe: log 17. -/
opaque Config.attributeDraw : Nat → AccessKind → Word → Byte

/-- DIV_FN outside its fixed domain (42_mul_div.md R142). Free, safe: log 11. -/
opaque Config.divFree : Word → Word → Word

/-- MOD_FN outside its fixed domain (42_mul_div.md R143). Free, safe: log 11. -/
opaque Config.modFree : Word → Word → Word

/-- MULL_HI_FN outside its fixed domain (42_mul_div.md R145). Free, safe: log 11. -/
opaque Config.mullHiFree : Word → Word → Word

/-- The quotient of DIVL_FN outside its fixed domain (42_mul_div.md R146). Free, safe: log 11. -/
opaque Config.divlQuotFree : BitVec 32 → Word → Word

/-- The remainder of DIVL_FN outside its fixed domain (42_mul_div.md R146). Free, safe: log 11. -/
opaque Config.divlRemFree : BitVec 32 → Word → Word

/-- SHIFT_FN, the result of a shift by 16 or more, one value for SHLA and SHLL (43_shift.md R151, R153). Free, safe: log 12. -/
opaque Config.shiftFree : ShiftOp → Word → Word → Word

/-- FAULT_PC, the PC saved by a fault-type exception, from the PC of the instruction and, where its length is known, the
address after it (60_exceptions.md R212). Free, safe: log 9. -/
opaque Config.faultPc : Exc → Word → Option Word → Word

/-- A MEM_PROTECT other than the recommended instance, one for every number: from P, the kind of access, the address and the two
limits (20_memory.md R69). Free, safe: log 7. -/
opaque Config.memProtectFree : Nat → Bool → AccessKind → Word → Word → Word → Bool

/-- The pending bits `irq[0..9]` that the devices leave after a step (60_exceptions.md R207). Free, safe: log 13. -/
opaque Config.irqRequests : Nat → BitVec 10

/-- IRQ_PRIORITY, the source taken when several are pending (60_exceptions.md R221). Free, safe: log 13. -/
opaque Config.irqPriority : BitVec 10 → Fin 10

/-- The device oracle: the byte of a port that a read answers, from the history of all earlier I/O (60_exceptions.md R222).
Free, safe: log 14. -/
opaque Config.ioAnswer : List IoEvent → Word → Byte

/-- A limit register after a byte OUT to one of its two addresses, which the spec does not state (60_exceptions.md R228 speaks
of a 16-bit OUT): from the step, its old value, the address and the byte. Free, safe: log 15. -/
opaque Config.limitAfterByteOut : Nat → Word → Word → Byte → Word

end Sys2Proof
end

