-- ==== Sys2Proof/Machine/Flags.lean ====
section
/-! DEFINITION. Machine/Flags.lean: FLAG as seven bits (10_state.md R28, R30), the words it is read from and loaded from,
every flag computation (10_state.md R33; 41_arith_logic.md R130), and the conditions of the jumps (44_jump_call.md R161 to
R175). -/

namespace Sys2Proof.Machine

/-- FLAG as state: seven bits (10_state.md R30). -/
structure Flags where
  /-- E, interrupt enable -/
  e : Bool
  /-- P, privileged mode -/
  p : Bool
  /-- I, I/O privileged mode -/
  i : Bool
  /-- V, overflow -/
  v : Bool
  /-- C, carry -/
  c : Bool
  /-- S, sign -/
  s : Bool
  /-- Z, zero -/
  z : Bool
deriving DecidableEq, Repr

/-- FLAG as the 16-bit value 00000000 E P I 0 V C S Z (10_state.md R28, R30). -/
def Flags.toWord (f : Flags) : Word :=
  0#8 ++ (BitVec.ofBool f.e ++ (BitVec.ofBool f.p ++ (BitVec.ofBool f.i ++ (0#1 ++
    (BitVec.ofBool f.v ++ (BitVec.ofBool f.c ++ (BitVec.ofBool f.s ++ BitVec.ofBool f.z)))))))

/-- The seven bits of a word loaded into FLAG; bits 15:8 and 4 are ignored (10_state.md R30). -/
def Flags.ofWord (w : Word) : Flags :=
  { e := w.getLsbD 7, p := w.getLsbD 6, i := w.getLsbD 5,
    v := w.getLsbD 3, c := w.getLsbD 2, s := w.getLsbD 1, z := w.getLsbD 0 }

/-- Writes V, C, S and Z and leaves E, P and I (10_state.md R31 (a); 41_arith_logic.md R130 (e)). -/
def Flags.setCond (f : Flags) (v c s z : Bool) : Flags :=
  { f with v := v, c := c, s := s, z := z }

/-- Bit 15 of a word. -/
def signBit (w : Word) : Bool := w.msb

/-- Z of a 16-bit result (41_arith_logic.md R130 (a)). -/
def zeroFlag (r : Word) : Bool := r == 0#16

/-- C of ADD: the carry out of bit 15, t[16] of the 17-bit sum (41_arith_logic.md R132). -/
def addCarry (a b : Word) : Bool := decide (65536 ≤ a.toNat + b.toNat)

/-- V of ADD: the operands agree in sign and the result does not (41_arith_logic.md R132). -/
def addOverflow (a b r : Word) : Bool := signBit a == signBit b && signBit r != signBit a

/-- C of SUB and CMP: the borrow, u(a) < u(b) (10_state.md R33). -/
def subBorrow (a b : Word) : Bool := decide (a.toNat < b.toNat)

/-- V of SUB and CMP: the operands differ in sign and the result from a (10_state.md R33). -/
def subOverflow (a b r : Word) : Bool := signBit a != signBit b && signBit r != signBit a

/-- FLAG after ADD (41_arith_logic.md R132). -/
def addFlags (f : Flags) (a b r : Word) : Flags :=
  f.setCond (addOverflow a b r) (addCarry a b) (signBit r) (zeroFlag r)

/-- FLAG after SUB and CMP (41_arith_logic.md R133, R134). -/
def subFlags (f : Flags) (a b r : Word) : Flags :=
  f.setCond (subOverflow a b r) (subBorrow a b) (signBit r) (zeroFlag r)

/-- FLAG after an instruction with one 16-bit result whose C and V are drawn (41_arith_logic.md R130 (a), (d)). -/
def resultFlags (tick : Nat) (f : Flags) (r : Word) : Flags :=
  f.setCond (Config.flagDraw tick .v) (Config.flagDraw tick .c) (signBit r) (zeroFlag r)

/-- FLAG after MULL and DIVL: all four drawn (41_arith_logic.md R130 (d)). -/
def drawnFlags (tick : Nat) (f : Flags) : Flags :=
  f.setCond (Config.flagDraw tick .v) (Config.flagDraw tick .c) (Config.flagDraw tick .s) (Config.flagDraw tick .z)

/-! ### The conditions of the jumps -/

/-- JZ (R161) -/
def condJz (f : Flags) : Bool := f.z
/-- JC (R162) -/
def condJc (f : Flags) : Bool := f.c
/-- JM (R163) -/
def condJm (f : Flags) : Bool := f.s
/-- JO (R164) -/
def condJo (f : Flags) : Bool := f.v
/-- JGT (R165): not (Z or (S xor V)) -/
def condJgt (f : Flags) : Bool := !(f.z || (f.s ^^ f.v))
/-- JGE (R166): not (S xor V) -/
def condJge (f : Flags) : Bool := !(f.s ^^ f.v)
/-- JLE (R167): Z or (S xor V) -/
def condJle (f : Flags) : Bool := f.z || (f.s ^^ f.v)
/-- JLT (R168): S xor V -/
def condJlt (f : Flags) : Bool := f.s ^^ f.v
/-- JNZ (R169) -/
def condJnz (f : Flags) : Bool := !f.z
/-- JNC (R170) -/
def condJnc (f : Flags) : Bool := !f.c
/-- JNM (R171) -/
def condJnm (f : Flags) : Bool := !f.s
/-- JNO (R172) -/
def condJno (f : Flags) : Bool := !f.v
/-- JHI (R173): not (Z or C) -/
def condJhi (f : Flags) : Bool := !(f.z || f.c)
/-- JLS (R174): Z or C -/
def condJls (f : Flags) : Bool := f.z || f.c

end Sys2Proof.Machine
end

