-- ==== Sys2Proof/Syntax.lean ====
section
/-! DEFINITION. Syntax.lean: the abstract syntax of the instruction set. An instruction of the opcode table is a constructor
of `Instr`; its addressing-mode argument selects the row (opcode_table.json has one row per mnemonic and mode). The types
`EA`, `MemEA`, `JumpEA` and `PortEA` admit exactly the modes of 30_encoding.md R95. -/

namespace Sys2Proof

/-- The registers a 4-bit register field names (10_state.md R24): 0h..Ch are G0..G12, Dh is SP, Eh is USP, Fh is PC. -/
inductive Reg where
  | g (n : Fin 13)
  | sp
  | usp
  | pc
deriving DecidableEq, Repr

/-- The frame pointer FP is G12 (10_state.md R21). -/
abbrev Reg.fp : Reg := .g 12

/-- The five modes that have a memory address: Direct, Indexed, FP Relative, Register Indirect and Byte Register Indirect
(30_encoding.md R85, R86, R88, R91, R92). They are the modes ST admits (R95). -/
inductive MemEA where
  | drct (dsp : Word)
  | idx (dsp : Word) (rx : Reg)
  | fp (d4 : Nibble)
  | indr (rx : Reg)
  | bindr (rx : Reg)
deriving DecidableEq, Repr

/-- The eight modes of a source operand: the five with an address, Immediate, Register and 4bit Signed Immediate
(30_encoding.md R85 to R92). -/
inductive EA where
  | mem (m : MemEA)
  | imm (w : Word)
  | reg (rs : Reg)
  | imm4 (i4 : Nibble)
deriving DecidableEq, Repr

/-- The three modes of the jumps and CALL (44_jump_call.md R160 (a)). -/
inductive JumpEA where
  | drct (dsp : Word)
  | idx (dsp : Word) (rx : Reg)
  | indr (rx : Reg)
deriving DecidableEq, Repr

/-- The three modes of IN and OUT (45_io.md R180 (a)). -/
inductive PortEA where
  | drct (dsp : Word)
  | indr (rx : Reg)
  | bindr (rx : Reg)
deriving DecidableEq, Repr

/-- The instructions of the opcode table, in the table's order. -/
inductive Instr where
  /-- NO (R121) -/
  | no
  /-- LD Rd,EA (R122) -/
  | ld (rd : Reg) (ea : EA)
  /-- ST Rd,EA (R124) -/
  | st (rd : Reg) (ea : MemEA)
  /-- LD Rd,FLAG (R123) -/
  | ldFlag (rd : Reg)
  /-- ADD (R132) -/
  | add (rd : Reg) (ea : EA)
  /-- SUB (R133) -/
  | sub (rd : Reg) (ea : EA)
  /-- CMP (R134) -/
  | cmp (rd : Reg) (ea : EA)
  /-- AND (R135) -/
  | and (rd : Reg) (ea : EA)
  /-- OR (R136) -/
  | or (rd : Reg) (ea : EA)
  /-- XOR (R137) -/
  | xor (rd : Reg) (ea : EA)
  /-- ADDS (R138) -/
  | adds (rd : Reg) (ea : EA)
  /-- MUL (R141) -/
  | mul (rd : Reg) (ea : EA)
  /-- DIV (R142) -/
  | div (rd : Reg) (ea : EA)
  /-- MOD (R143) -/
  | mod (rd : Reg) (ea : EA)
  /-- MULL (R145) -/
  | mull (rd : Reg) (ea : EA)
  /-- DIVL (R146) -/
  | divl (rd : Reg) (ea : EA)
  /-- SHLA (R152) -/
  | shla (rd : Reg) (ea : EA)
  /-- SHLL (R153) -/
  | shll (rd : Reg) (ea : EA)
  /-- SHRA (R154) -/
  | shra (rd : Reg) (ea : EA)
  /-- SHRL (R155) -/
  | shrl (rd : Reg) (ea : EA)
  /-- JZ (R161) -/
  | jz (ea : JumpEA)
  /-- JC (R162) -/
  | jc (ea : JumpEA)
  /-- JM (R163) -/
  | jm (ea : JumpEA)
  /-- JO (R164) -/
  | jo (ea : JumpEA)
  /-- JGT (R165) -/
  | jgt (ea : JumpEA)
  /-- JGE (R166) -/
  | jge (ea : JumpEA)
  /-- JLE (R167) -/
  | jle (ea : JumpEA)
  /-- JLT (R168) -/
  | jlt (ea : JumpEA)
  /-- JNZ (R169) -/
  | jnz (ea : JumpEA)
  /-- JNC (R170) -/
  | jnc (ea : JumpEA)
  /-- JNM (R171) -/
  | jnm (ea : JumpEA)
  /-- JNO (R172) -/
  | jno (ea : JumpEA)
  /-- JHI (R173) -/
  | jhi (ea : JumpEA)
  /-- JLS (R174) -/
  | jls (ea : JumpEA)
  /-- JMP (R175) -/
  | jmp (ea : JumpEA)
  /-- CALL (R176) -/
  | call (ea : JumpEA)
  /-- IN (R181) -/
  | inp (rd : Reg) (ea : PortEA)
  /-- OUT (R182) -/
  | outp (rd : Reg) (ea : PortEA)
  /-- PUSH (R186) -/
  | push (rd : Reg)
  /-- POP (R187) -/
  | pop (rd : Reg)
  /-- RET (R188) -/
  | ret
  /-- RETI (R189) -/
  | reti
  /-- EI (R193) -/
  | ei
  /-- DI (R194) -/
  | di
  /-- SVC (R195) -/
  | svc
  /-- HALT (R197) -/
  | halt
deriving DecidableEq, Repr

end Sys2Proof
end

