-- ==== Sys2Proof/WellFormed.lean ====
section
/-! DEFINITION. WellFormed.lean: which instruction terms the spec gives a meaning. Two checks: no register field is PC
(10_state.md R27), and the register pair of MULL and DIVL is one of the six admitted ones (42_mul_div.md R144). The other
refusals of 60_exceptions.md R208 (5) concern words that are no instruction term and stand in Decode.lean. -/

namespace Sys2Proof

/-- Register number Fh. -/
def Reg.isPc (r : Reg) : Bool := r == .pc

/-- Does the mode's register field name PC? -/
def MemEA.usesPc : MemEA → Bool
  | .drct _ => false
  | .idx _ rx => rx.isPc
  | .fp _ => false
  | .indr rx => rx.isPc
  | .bindr rx => rx.isPc

/-- Does the mode's register field name PC? -/
def EA.usesPc : EA → Bool
  | .mem m => m.usesPc
  | .imm _ => false
  | .reg rs => rs.isPc
  | .imm4 _ => false

/-- Does the mode's register field name PC? -/
def JumpEA.usesPc : JumpEA → Bool
  | .drct _ => false
  | .idx _ rx => rx.isPc
  | .indr rx => rx.isPc

/-- Does the mode's register field name PC? -/
def PortEA.usesPc : PortEA → Bool
  | .drct _ => false
  | .indr rx => rx.isPc
  | .bindr rx => rx.isPc

/-- R27: a register field equal to Fh is given no meaning. -/
def Instr.usesPc (i : Instr) : Bool :=
  match i with
  | .no => false
  | .ld rd ea => rd.isPc || ea.usesPc
  | .st rd ea => rd.isPc || ea.usesPc
  | .ldFlag rd => rd.isPc
  | .add rd ea => rd.isPc || ea.usesPc
  | .sub rd ea => rd.isPc || ea.usesPc
  | .cmp rd ea => rd.isPc || ea.usesPc
  | .and rd ea => rd.isPc || ea.usesPc
  | .or rd ea => rd.isPc || ea.usesPc
  | .xor rd ea => rd.isPc || ea.usesPc
  | .adds rd ea => rd.isPc || ea.usesPc
  | .mul rd ea => rd.isPc || ea.usesPc
  | .div rd ea => rd.isPc || ea.usesPc
  | .mod rd ea => rd.isPc || ea.usesPc
  | .mull rd ea => rd.isPc || ea.usesPc
  | .divl rd ea => rd.isPc || ea.usesPc
  | .shla rd ea => rd.isPc || ea.usesPc
  | .shll rd ea => rd.isPc || ea.usesPc
  | .shra rd ea => rd.isPc || ea.usesPc
  | .shrl rd ea => rd.isPc || ea.usesPc
  | .jz ea => ea.usesPc
  | .jc ea => ea.usesPc
  | .jm ea => ea.usesPc
  | .jo ea => ea.usesPc
  | .jgt ea => ea.usesPc
  | .jge ea => ea.usesPc
  | .jle ea => ea.usesPc
  | .jlt ea => ea.usesPc
  | .jnz ea => ea.usesPc
  | .jnc ea => ea.usesPc
  | .jnm ea => ea.usesPc
  | .jno ea => ea.usesPc
  | .jhi ea => ea.usesPc
  | .jls ea => ea.usesPc
  | .jmp ea => ea.usesPc
  | .call ea => ea.usesPc
  | .inp rd ea => rd.isPc || ea.usesPc
  | .outp rd ea => rd.isPc || ea.usesPc
  | .push rd => rd.isPc
  | .pop rd => rd.isPc
  | .ret => false
  | .reti => false
  | .ei => false
  | .di => false
  | .svc => false
  | .halt => false

/-- R144: Rd of MULL and DIVL is one of 0h, 2h, 4h, 6h, 8h, Ah. -/
def Reg.isPairLow : Reg → Bool
  | .g n => n.val % 2 == 0 && decide (n.val ≤ 10)
  | .sp => false
  | .usp => false
  | .pc => false

/-- R144: MULL or DIVL with an Rd that heads no admitted pair. -/
def Instr.badPair (i : Instr) : Bool :=
  match i with
  | .no => false
  | .ld _ _ => false
  | .st _ _ => false
  | .ldFlag _ => false
  | .add _ _ => false
  | .sub _ _ => false
  | .cmp _ _ => false
  | .and _ _ => false
  | .or _ _ => false
  | .xor _ _ => false
  | .adds _ _ => false
  | .mul _ _ => false
  | .div _ _ => false
  | .mod _ _ => false
  | .mull rd _ => !rd.isPairLow
  | .divl rd _ => !rd.isPairLow
  | .shla _ _ => false
  | .shll _ _ => false
  | .shra _ _ => false
  | .shrl _ _ => false
  | .jz _ => false
  | .jc _ => false
  | .jm _ => false
  | .jo _ => false
  | .jgt _ => false
  | .jge _ => false
  | .jle _ => false
  | .jlt _ => false
  | .jnz _ => false
  | .jnc _ => false
  | .jnm _ => false
  | .jno _ => false
  | .jhi _ => false
  | .jls _ => false
  | .jmp _ => false
  | .call _ => false
  | .inp _ _ => false
  | .outp _ _ => false
  | .push _ => false
  | .pop _ => false
  | .ret => false
  | .reti => false
  | .ei => false
  | .di => false
  | .svc => false
  | .halt => false

/-- An instruction the spec gives a meaning. -/
def Instr.wellFormed (i : Instr) : Bool := !i.usesPc && !i.badPair

end Sys2Proof
end

