-- ==== Sys2Proof/Decode.lean ====
section
/-! DEFINITION. Decode.lean: instruction words and terms (30_encoding.md). The decoder is total on any bytes and rejects by
name; the encoder after it writes the words of an instruction from the same tables; the length of an instruction and the
numbering of table words stand at the end. -/

namespace Sys2Proof

/-! ### Words, bytes and fields -/

/-- Big-endian (20_memory.md R51): the byte at the even address is bits 15:8. -/
def wordOfBytes (hi lo : Byte) : Word := hi ++ lo

/-- Bits 15:8 of a word (20_memory.md R51, R55). -/
def hiByte (w : Word) : Byte := w.extractLsb' 8 8

/-- Bits 7:0 of a word (20_memory.md R51, R55). -/
def loByte (w : Word) : Byte := w.extractLsb' 0 8

/-- Field OP, bits 15:8 of the first word (R81). -/
def opField (w : Word) : BitVec 8 := w.extractLsb' 8 8

/-- Field Rd, bits 7:4 of the first word (R81). -/
def rdField (w : Word) : Nibble := w.extractLsb' 4 4

/-- Field Rx, bits 3:0 of the first word, also Rs, D4 or I4 (R81). -/
def rxField (w : Word) : Nibble := w.extractLsb' 0 4

/-- The first word from its three fields (R81). -/
def packWord (op : BitVec 8) (rd rx : Nibble) : Word := op ++ (rd ++ rx)

/-- OP[7:3], the row of the opcode map (R83). -/
def opRow (op : BitVec 8) : Nat := op.toNat / 8

/-- OP[2:0], the column of the opcode map, the mode number (R83). -/
def opCol (op : BitVec 8) : Nat := op.toNat % 8

/-- The register a 4-bit field names (10_state.md R24). -/
def Reg.ofNum (n : Nibble) : Reg :=
  if h : n.toNat < 13 then .g ⟨n.toNat, h⟩
  else if n = 13#4 then .sp
  else if n = 14#4 then .usp
  else .pc

/-- The number of a register (10_state.md R24). -/
def Reg.num : Reg → Nibble
  | .g n => BitVec.ofNat 4 n.val
  | .sp => 13#4
  | .usp => 14#4
  | .pc => 15#4

/-! ### The opcode map -/

/-- The ten formats *0 to *9 (R84). -/
inductive Format where
  | drct | idx | imm | fp | reg | imm4 | indr | bindr | oneReg | noOperand
deriving DecidableEq, Repr

/-- Format *m of an EA operand, by mode number (R83, R84). -/
def modeFormat (m : Nat) : Option Format :=
  match m with
  | 0 => some .drct
  | 1 => some .idx
  | 2 => some .imm
  | 3 => some .fp
  | 4 => some .reg
  | 5 => some .imm4
  | 6 => some .indr
  | 7 => some .bindr
  | _ => none

/-- The two-operand instructions that admit all eight modes, by row of the opcode map (R94, R95). -/
def twoOperand (row : Nat) : Option (Reg → EA → Instr) :=
  match row with
  | 1 => some .ld
  | 3 => some .add
  | 4 => some .sub
  | 5 => some .cmp
  | 6 => some .and
  | 7 => some .or
  | 8 => some .xor
  | 9 => some .adds
  | 10 => some .mul
  | 11 => some .div
  | 12 => some .mod
  | 13 => some .mull
  | 14 => some .divl
  | 16 => some .shla
  | 17 => some .shll
  | 18 => some .shra
  | 19 => some .shrl
  | _ => none

/-- The jump a condition digit selects (R100); Dh selects none. -/
def jumpOf (cond : Nibble) : Option (JumpEA → Instr) :=
  match cond.toNat with
  | 0 => some .jz
  | 1 => some .jc
  | 2 => some .jm
  | 3 => some .jo
  | 4 => some .jgt
  | 5 => some .jge
  | 6 => some .jle
  | 7 => some .jlt
  | 8 => some .jnz
  | 9 => some .jnc
  | 10 => some .jnm
  | 11 => some .jno
  | 12 => some .jhi
  | 14 => some .jls
  | 15 => some .jmp
  | _ => none

/-- The cell of the opcode map at a row and a column: its format, or none where the cell is blank (R94, R97). -/
def opCell (row col : Nat) : Option Format :=
  match twoOperand row with
  | some _ => modeFormat col
  | none =>
    match row, col with
    | 0, 0 => some .noOperand
    | 2, 0 => some .drct
    | 2, 1 => some .idx
    | 2, 3 => some .fp
    | 2, 4 => some .oneReg
    | 2, 6 => some .indr
    | 2, 7 => some .bindr
    | 20, 0 => some .drct
    | 20, 1 => some .idx
    | 20, 6 => some .indr
    | 21, 0 => some .drct
    | 21, 1 => some .idx
    | 21, 6 => some .indr
    | 22, 0 => some .drct
    | 22, 6 => some .indr
    | 22, 7 => some .bindr
    | 23, 0 => some .drct
    | 23, 6 => some .indr
    | 23, 7 => some .bindr
    | 24, 0 => some .oneReg
    | 24, 4 => some .oneReg
    | 26, 0 => some .noOperand
    | 26, 4 => some .noOperand
    | 28, 0 => some .noOperand
    | 28, 4 => some .noOperand
    | 30, 0 => some .noOperand
    | 31, 7 => some .noOperand
    | _, _ => none

/-- Does the format have a second word (R99)? -/
def Format.twoWords : Format → Bool
  | .drct => true
  | .idx => true
  | .imm => true
  | .fp => false
  | .reg => false
  | .imm4 => false
  | .indr => false
  | .bindr => false
  | .oneReg => false
  | .noOperand => false

/-! ### The decoder -/

/-- Why the words of an instruction are none of the model. The first is the exception of R97; the others are the refusals of
60_exceptions.md R208 (5). -/
inductive WordError where
  | undefinedOp
  | nonZeroField
  | jumpConditionD
  | pcOperand
  | badRegisterPair
deriving DecidableEq, Repr

/-- Why a list of bytes is no instruction: its words are none, or it ends before the instruction does. -/
inductive DecodeError where
  | words (e : WordError)
  | truncated
deriving DecidableEq, Repr

/-- Refuses a field the format shows as 0h that is not zero (R98). -/
def zeroField (n : Nibble) (i : Instr) : Except WordError Instr :=
  if n = 0#4 then .ok i else .error .nonZeroField

/-- The operand of an EA format, from the low nibble and the second word (R85 to R92). -/
def decodeEA (f : Format) (rx : Nibble) (w2 : Word) : Except WordError EA :=
  match f with
  | .drct => if rx = 0#4 then .ok (.mem (.drct w2)) else .error .nonZeroField
  | .idx => .ok (.mem (.idx w2 (.ofNum rx)))
  | .imm => if rx = 0#4 then .ok (.imm w2) else .error .nonZeroField
  | .fp => .ok (.mem (.fp rx))
  | .reg => .ok (.reg (.ofNum rx))
  | .imm4 => .ok (.imm4 rx)
  | .indr => .ok (.mem (.indr (.ofNum rx)))
  | .bindr => .ok (.mem (.bindr (.ofNum rx)))
  | .oneReg => .error .undefinedOp
  | .noOperand => .error .undefinedOp

/-- The operand of ST; the opcode map gives row 2 no cell of another format. -/
def EA.asMem : EA → Except WordError MemEA
  | .mem m => .ok m
  | .imm _ => .error .undefinedOp
  | .reg _ => .error .undefinedOp
  | .imm4 _ => .error .undefinedOp

/-- The operand of a jump or CALL; the opcode map gives rows 20 and 21 no cell of another format. -/
def EA.asJump : EA → Except WordError JumpEA
  | .mem (.drct d) => .ok (.drct d)
  | .mem (.idx d rx) => .ok (.idx d rx)
  | .mem (.fp _) => .error .undefinedOp
  | .mem (.indr rx) => .ok (.indr rx)
  | .mem (.bindr _) => .error .undefinedOp
  | .imm _ => .error .undefinedOp
  | .reg _ => .error .undefinedOp
  | .imm4 _ => .error .undefinedOp

/-- The operand of IN or OUT; the opcode map gives rows 22 and 23 no cell of another format. -/
def EA.asPort : EA → Except WordError PortEA
  | .mem (.drct d) => .ok (.drct d)
  | .mem (.idx _ _) => .error .undefinedOp
  | .mem (.fp _) => .error .undefinedOp
  | .mem (.indr rx) => .ok (.indr rx)
  | .mem (.bindr rx) => .ok (.bindr rx)
  | .imm _ => .error .undefinedOp
  | .reg _ => .error .undefinedOp
  | .imm4 _ => .error .undefinedOp

/-- The instruction term of a non-blank cell, from the other fields. -/
def decodeCell (row col : Nat) (f : Format) (rd rx : Nibble) (w2 : Word) : Except WordError Instr :=
  match twoOperand row with
  | some mk => (decodeEA f rx w2).map (mk (.ofNum rd))
  | none =>
    match row, col with
    | 0, _ => zeroField (rd ||| rx) .no
    | 2, 4 => zeroField rx (.ldFlag (.ofNum rd))
    | 2, _ => ((decodeEA f rx w2).bind EA.asMem).map (.st (.ofNum rd))
    | 20, _ =>
      match jumpOf rd with
      | some mk => ((decodeEA f rx w2).bind EA.asJump).map mk
      | none => .error .jumpConditionD
    | 21, _ => if rd = 0#4 then ((decodeEA f rx w2).bind EA.asJump).map .call else .error .nonZeroField
    | 22, _ => ((decodeEA f rx w2).bind EA.asPort).map (.inp (.ofNum rd))
    | 23, _ => ((decodeEA f rx w2).bind EA.asPort).map (.outp (.ofNum rd))
    | 24, 0 => zeroField rx (.push (.ofNum rd))
    | 24, _ => zeroField rx (.pop (.ofNum rd))
    | 26, 0 => zeroField (rd ||| rx) .ret
    | 26, _ => zeroField (rd ||| rx) .reti
    | 28, 0 => zeroField (rd ||| rx) .ei
    | 28, _ => zeroField (rd ||| rx) .di
    | 30, _ => zeroField (rd ||| rx) .svc
    | 31, _ => zeroField (rd ||| rx) .halt
    | _, _ => .error .undefinedOp

/-- Refuses a register field Fh (10_state.md R27) and a bad pair of MULL or DIVL (42_mul_div.md R144). -/
def checkWellFormed (i : Instr) : Except WordError Instr :=
  if i.usesPc then .error .pcOperand
  else if i.badPair then .error .badRegisterPair
  else .ok i

/-- The instruction of a first word and, where its format has one, a second word (R80 steps 2, 3 and 5). -/
def decodeWords (w1 w2 : Word) : Except WordError Instr :=
  let row := opRow (opField w1)
  let col := opCol (opField w1)
  match opCell row col with
  | none => .error .undefinedOp
  | some f => (decodeCell row col f (rdField w1) (rxField w1) w2).bind checkWellFormed

/-- Does the first word call for a second one (R99)? None where its OP is undefined (R97). -/
def needsSecondWord (w1 : Word) : Option Bool :=
  (opCell (opRow (opField w1)) (opCol (opField w1))).map Format.twoWords

/-- Pairs an instruction with the bytes after it, or passes its error on. -/
def headInstr (r : Except WordError Instr) (rest : List Byte) : Except DecodeError (Instr × List Byte) :=
  match r with
  | .ok i => .ok (i, rest)
  | .error e => .error (.words e)

/-- The instruction at the head of a list of bytes, and the bytes after it. -/
def decode (bytes : List Byte) : Except DecodeError (Instr × List Byte) :=
  match bytes with
  | b0 :: b1 :: rest =>
    let w1 := wordOfBytes b0 b1
    match needsSecondWord w1 with
    | none => .error (.words .undefinedOp)
    | some false => headInstr (decodeWords w1 0#16) rest
    | some true =>
      match rest with
      | b2 :: b3 :: rest' => headInstr (decodeWords w1 (wordOfBytes b2 b3)) rest'
      | _ => .error .truncated
  | _ => .error .truncated

/-! ### The encoder -/

/-- The OP byte of a cell of the opcode map (R83). -/
def opByte (row col : Nat) : BitVec 8 := BitVec.ofNat 8 (8 * row + col)

/-- A two-operand instruction with a memory mode (R85, R86, R88, R91, R92). -/
def encodeMem (row : Nat) (rd : Nibble) (m : MemEA) : List Word :=
  match m with
  | .drct dsp => [packWord (opByte row 0) rd 0#4, dsp]
  | .idx dsp rx => [packWord (opByte row 1) rd rx.num, dsp]
  | .fp d4 => [packWord (opByte row 3) rd d4]
  | .indr rx => [packWord (opByte row 6) rd rx.num]
  | .bindr rx => [packWord (opByte row 7) rd rx.num]

/-- A two-operand instruction with any of the eight modes (R85 to R92). -/
def encodeEA (row : Nat) (rd : Nibble) (ea : EA) : List Word :=
  match ea with
  | .mem m => encodeMem row rd m
  | .imm w => [packWord (opByte row 2) rd 0#4, w]
  | .reg rs => [packWord (opByte row 4) rd rs.num]
  | .imm4 i4 => [packWord (opByte row 5) rd i4]

/-- A jump or CALL: the Rd field is the condition digit, or 0h for CALL (R98, R100). -/
def encodeJump (row : Nat) (cond : Nibble) (ea : JumpEA) : List Word :=
  match ea with
  | .drct dsp => [packWord (opByte row 0) cond 0#4, dsp]
  | .idx dsp rx => [packWord (opByte row 1) cond rx.num, dsp]
  | .indr rx => [packWord (opByte row 6) cond rx.num]

/-- IN and OUT (R95). -/
def encodePort (row : Nat) (rd : Nibble) (ea : PortEA) : List Word :=
  match ea with
  | .drct dsp => [packWord (opByte row 0) rd 0#4, dsp]
  | .indr rx => [packWord (opByte row 6) rd rx.num]
  | .bindr rx => [packWord (opByte row 7) rd rx.num]

/-- The words of an instruction (R81 to R96, R100). -/
def encode (i : Instr) : List Word :=
  match i with
  | .no => [packWord (opByte 0 0) 0#4 0#4]
  | .ld rd ea => encodeEA 1 rd.num ea
  | .st rd ea => encodeMem 2 rd.num ea
  | .ldFlag rd => [packWord (opByte 2 4) rd.num 0#4]
  | .add rd ea => encodeEA 3 rd.num ea
  | .sub rd ea => encodeEA 4 rd.num ea
  | .cmp rd ea => encodeEA 5 rd.num ea
  | .and rd ea => encodeEA 6 rd.num ea
  | .or rd ea => encodeEA 7 rd.num ea
  | .xor rd ea => encodeEA 8 rd.num ea
  | .adds rd ea => encodeEA 9 rd.num ea
  | .mul rd ea => encodeEA 10 rd.num ea
  | .div rd ea => encodeEA 11 rd.num ea
  | .mod rd ea => encodeEA 12 rd.num ea
  | .mull rd ea => encodeEA 13 rd.num ea
  | .divl rd ea => encodeEA 14 rd.num ea
  | .shla rd ea => encodeEA 16 rd.num ea
  | .shll rd ea => encodeEA 17 rd.num ea
  | .shra rd ea => encodeEA 18 rd.num ea
  | .shrl rd ea => encodeEA 19 rd.num ea
  | .jz ea => encodeJump 20 0#4 ea
  | .jc ea => encodeJump 20 1#4 ea
  | .jm ea => encodeJump 20 2#4 ea
  | .jo ea => encodeJump 20 3#4 ea
  | .jgt ea => encodeJump 20 4#4 ea
  | .jge ea => encodeJump 20 5#4 ea
  | .jle ea => encodeJump 20 6#4 ea
  | .jlt ea => encodeJump 20 7#4 ea
  | .jnz ea => encodeJump 20 8#4 ea
  | .jnc ea => encodeJump 20 9#4 ea
  | .jnm ea => encodeJump 20 10#4 ea
  | .jno ea => encodeJump 20 11#4 ea
  | .jhi ea => encodeJump 20 12#4 ea
  | .jls ea => encodeJump 20 14#4 ea
  | .jmp ea => encodeJump 20 15#4 ea
  | .call ea => encodeJump 21 0#4 ea
  | .inp rd ea => encodePort 22 rd.num ea
  | .outp rd ea => encodePort 23 rd.num ea
  | .push rd => [packWord (opByte 24 0) rd.num 0#4]
  | .pop rd => [packWord (opByte 24 4) rd.num 0#4]
  | .ret => [packWord (opByte 26 0) 0#4 0#4]
  | .reti => [packWord (opByte 26 4) 0#4 0#4]
  | .ei => [packWord (opByte 28 0) 0#4 0#4]
  | .di => [packWord (opByte 28 4) 0#4 0#4]
  | .svc => [packWord (opByte 30 0) 0#4 0#4]
  | .halt => [packWord (opByte 31 7) 0#4 0#4]

/-- The two bytes of a word in memory order (20_memory.md R51). -/
def bytesOfWord (w : Word) : List Byte := [hiByte w, loByte w]

/-- The bytes of an instruction in memory order. -/
def encodeBytes (i : Instr) : List Byte := (encode i).flatMap bytesOfWord

/-! ### Lengths and table words -/

/-- Length in bytes of an instruction with a memory mode (R99). -/
def MemEA.byteLen : MemEA → Nat
  | .drct _ => 4
  | .idx _ _ => 4
  | .fp _ => 2
  | .indr _ => 2
  | .bindr _ => 2

/-- Length in bytes of an instruction with this operand (R99). -/
def EA.byteLen : EA → Nat
  | .mem m => m.byteLen
  | .imm _ => 4
  | .reg _ => 2
  | .imm4 _ => 2

/-- Length in bytes of a jump or CALL (R99, R160 (c)). -/
def JumpEA.byteLen : JumpEA → Nat
  | .drct _ => 4
  | .idx _ _ => 4
  | .indr _ => 2

/-- Length in bytes of IN or OUT (R99). -/
def PortEA.byteLen : PortEA → Nat
  | .drct _ => 4
  | .indr _ => 2
  | .bindr _ => 2

/-- The length of an instruction in bytes (R99). -/
def Instr.byteLen (i : Instr) : Nat :=
  match i with
  | .no => 2
  | .ld _ ea => ea.byteLen
  | .st _ ea => ea.byteLen
  | .ldFlag _ => 2
  | .add _ ea => ea.byteLen
  | .sub _ ea => ea.byteLen
  | .cmp _ ea => ea.byteLen
  | .and _ ea => ea.byteLen
  | .or _ ea => ea.byteLen
  | .xor _ ea => ea.byteLen
  | .adds _ ea => ea.byteLen
  | .mul _ ea => ea.byteLen
  | .div _ ea => ea.byteLen
  | .mod _ ea => ea.byteLen
  | .mull _ ea => ea.byteLen
  | .divl _ ea => ea.byteLen
  | .shla _ ea => ea.byteLen
  | .shll _ ea => ea.byteLen
  | .shra _ ea => ea.byteLen
  | .shrl _ ea => ea.byteLen
  | .jz ea => ea.byteLen
  | .jc ea => ea.byteLen
  | .jm ea => ea.byteLen
  | .jo ea => ea.byteLen
  | .jgt ea => ea.byteLen
  | .jge ea => ea.byteLen
  | .jle ea => ea.byteLen
  | .jlt ea => ea.byteLen
  | .jnz ea => ea.byteLen
  | .jnc ea => ea.byteLen
  | .jnm ea => ea.byteLen
  | .jno ea => ea.byteLen
  | .jhi ea => ea.byteLen
  | .jls ea => ea.byteLen
  | .jmp ea => ea.byteLen
  | .call ea => ea.byteLen
  | .inp _ ea => ea.byteLen
  | .outp _ ea => ea.byteLen
  | .push _ => 2
  | .pop _ => 2
  | .ret => 2
  | .reti => 2
  | .ei => 2
  | .di => 2
  | .svc => 2
  | .halt => 2

/-- Word k of an instruction given as one number, the first word in bits 15..0 (opcode_table.json's numbering). -/
def tableWord (nbits w k : Nat) : Word := BitVec.ofNat 16 (w % 2 ^ nbits / 2 ^ (16 * k))

/-- The bytes, in memory order, of the longest instruction's worth of a table word: two words. -/
def tableBytes (nbits w : Nat) : List Byte :=
  bytesOfWord (tableWord nbits w 0) ++ bytesOfWord (tableWord nbits w 1)

/-- The instruction the decoder reads from an instruction whose bits are w, the first word in bits 15..0. -/
def decodeTableWord (nbits w : Nat) : Option Instr :=
  match decode (tableBytes nbits w) with
  | .ok (i, _) => some i
  | .error _ => none

end Sys2Proof
end

