-- ==== Sys2Proof/Machine/Memory.lean ====
section
/-! DEFINITION. Machine/Memory.lean: the memory map (20_memory.md R59 to R63) and the memory as a list of (address, byte)
pairs in one canonical form. An unlisted address has no value (70_reset_and_hazards.md R242; log 4). -/

namespace Sys2Proof.Machine

/-- The regions of the memory space (20_memory.md R59 to R63). -/
inductive Region where
  /-- 0000h..DFFFh (R60) -/
  | ram
  /-- the odd bytes of E000h..EFFFh (R61) -/
  | vram
  /-- the even bytes of E000h..EFFFh, reserved for an attribute (R61) -/
  | attrib
  /-- F000h..FFDFh (R62) -/
  | rom
  /-- FFE0h..FFFFh (R63) -/
  | vector
deriving DecidableEq, Repr

/-- The region of an address (20_memory.md R59). -/
def regionOf (a : Nat) : Region :=
  if a < 0xE000 then .ram
  else if a < 0xF000 then (if a % 2 = 0 then .attrib else .vram)
  else if a < 0xFFE0 then .rom
  else .vector

/-- The contents of the memory space: the bytes that something has written or a launch has placed, by address. -/
abbrev Memory := List Host.Cell

/-- What an address holds; none where nothing has written it (70_reset_and_hazards.md R242). -/
def Memory.get : Memory → Nat → Option Byte
  | [], _ => none
  | (k, v) :: m, a => if a = k then some v else Memory.get m a

/-- Puts a byte at an address, keeping the addresses strictly rising. -/
def Memory.set : Memory → Nat → Byte → Memory
  | [], a, v => [(a, v)]
  | (k, w) :: m, a, v =>
    if a < k then (a, v) :: (k, w) :: m
    else if a = k then (a, v) :: m
    else (k, w) :: Memory.set m a v

/-- Every address is at least `lo`, in the memory space, not an attribute byte (which holds nothing, R61), and the addresses
rise strictly. -/
def Memory.wfFrom : Nat → Memory → Bool
  | _, [] => true
  | lo, (k, _) :: m =>
    decide (lo ≤ k) && decide (k < 65536) && regionOf k != .attrib && Memory.wfFrom (k + 1) m

/-- The canonical form of a memory. No entry can equal what an unlisted address reads as: that is no value. -/
def Memory.wf (m : Memory) : Bool := Memory.wfFrom 0 m

/-- Stores a byte where the region keeps it: a write to an attribute byte has no effect (20_memory.md R61). -/
def Memory.store (m : Memory) (a : Word) (v : Byte) : Memory :=
  if regionOf a.toNat = .attrib then m else Memory.set m a.toNat v

end Sys2Proof.Machine
end

