-- ==== Sys2Proof/Machine/Params.lean ====
section
/-! DEFINITION. Machine/Params.lean: the parameters that 00_scope.md R5 leaves to the model as arguments and for which the spec
recommends an instance: PRIV_SET, MEM_PROTECT and USER_RETI_MASK. They are arguments of the model: a field of State that no step
changes, so that what is said of every state is said for every value of them. Only State.reset takes the recommended values
(DESIGN CHOICE, unsafe for runs from reset: logs 6, 7, 8). -/

namespace Sys2Proof.Machine

/-- The rows of the instruction table, without operands: what PRIV_SET is a set of (60_exceptions.md R216). -/
inductive InstrName where
  | no
  | ld
  | st
  | ldFlag
  | add
  | sub
  | cmp
  | and
  | or
  | xor
  | adds
  | mul
  | div
  | mod
  | mull
  | divl
  | shla
  | shll
  | shra
  | shrl
  | jz
  | jc
  | jm
  | jo
  | jgt
  | jge
  | jle
  | jlt
  | jnz
  | jnc
  | jnm
  | jno
  | jhi
  | jls
  | jmp
  | call
  | inp
  | outp
  | push
  | pop
  | ret
  | reti
  | ei
  | di
  | svc
  | halt
deriving DecidableEq, Repr

/-- The row of the instruction table that an instruction belongs to. -/
def instrName (i : Instr) : InstrName :=
  match i with
  | .no => .no
  | .ld _ _ => .ld
  | .st _ _ => .st
  | .ldFlag _ => .ldFlag
  | .add _ _ => .add
  | .sub _ _ => .sub
  | .cmp _ _ => .cmp
  | .and _ _ => .and
  | .or _ _ => .or
  | .xor _ _ => .xor
  | .adds _ _ => .adds
  | .mul _ _ => .mul
  | .div _ _ => .div
  | .mod _ _ => .mod
  | .mull _ _ => .mull
  | .divl _ _ => .divl
  | .shla _ _ => .shla
  | .shll _ _ => .shll
  | .shra _ _ => .shra
  | .shrl _ _ => .shrl
  | .jz _ => .jz
  | .jc _ => .jc
  | .jm _ => .jm
  | .jo _ => .jo
  | .jgt _ => .jgt
  | .jge _ => .jge
  | .jle _ => .jle
  | .jlt _ => .jlt
  | .jnz _ => .jnz
  | .jnc _ => .jnc
  | .jnm _ => .jnm
  | .jno _ => .jno
  | .jhi _ => .jhi
  | .jls _ => .jls
  | .jmp _ => .jmp
  | .call _ => .call
  | .inp _ _ => .inp
  | .outp _ _ => .outp
  | .push _ => .push
  | .pop _ => .pop
  | .ret => .ret
  | .reti => .reti
  | .ei => .ei
  | .di => .di
  | .svc => .svc
  | .halt => .halt

/-- The parameter MEM_PROTECT (20_memory.md R69, decision D35), as plain data. -/
inductive ProtectRule where
  /-- the recommended instance -/
  | recommended
  /-- any other function of the mode, the kind of access, the address and the limits: an uninterpreted one for every n -/
  | other (n : Nat)
deriving DecidableEq, Repr

/-- The parameters of 00_scope.md R5 that the model takes as arguments. -/
structure Params where
  /-- PRIV_SET (60_exceptions.md R216, decision D21): of its members, those that `neverPrivileged` names have no effect -/
  privSet : List InstrName
  /-- MEM_PROTECT (20_memory.md R69, decision D35) -/
  memProtect : ProtectRule
  /-- USER_RETI_MASK, in the bit positions of FLAG (46_stack_return.md R189, decision D25) -/
  userRetiMask : Word
deriving DecidableEq, Repr

/-- The values the spec recommends: PRIV_SET = {IN, OUT, EI, DI, HALT}, the recommended MEM_PROTECT, and a USER_RETI_MASK that
loads none of E, P, I (60_exceptions.md R216; 20_memory.md R69; 46_stack_return.md R189). Logs 6, 7, 8. -/
def Params.recommended : Params where
  privSet := [.inp, .outp, .ei, .di, .halt]
  memProtect := .recommended
  userRetiMask := 0x0000#16

/-- The rows the spec itself says are not privileged, which no PRIV_SET can make so: ADD to ADDS (41_arith_logic.md R131 (e)), MUL to
DIVL (42_mul_div.md R140 (d)), the shifts (43_shift.md R150 (c)), the jumps and CALL (44_jump_call.md R160 (g), R176) and SVC
(47_system.md R195, decision D21). Of the other rows it says only that they are, or are not, in the recommended PRIV_SET
(40_no_load_store.md R120 (f); 46_stack_return.md R185 (f), R189; 45_io.md R180 (b); 47_system.md R192 (c)): log 6. -/
def neverPrivileged (n : InstrName) : Bool :=
  match n with
  | .no => false
  | .ld => false
  | .st => false
  | .ldFlag => false
  | .add => true
  | .sub => true
  | .cmp => true
  | .and => true
  | .or => true
  | .xor => true
  | .adds => true
  | .mul => true
  | .div => true
  | .mod => true
  | .mull => true
  | .divl => true
  | .shla => true
  | .shll => true
  | .shra => true
  | .shrl => true
  | .jz => true
  | .jc => true
  | .jm => true
  | .jo => true
  | .jgt => true
  | .jge => true
  | .jle => true
  | .jlt => true
  | .jnz => true
  | .jnc => true
  | .jnm => true
  | .jno => true
  | .jhi => true
  | .jls => true
  | .jmp => true
  | .call => true
  | .inp => false
  | .outp => false
  | .push => false
  | .pop => false
  | .ret => false
  | .reti => false
  | .ei => false
  | .di => false
  | .svc => true
  | .halt => false

/-- Is the instruction privileged: a member of PRIV_SET (60_exceptions.md R216), and not of a row that never is? -/
def inPrivSet (p : Params) (i : Instr) : Bool :=
  !neverPrivileged (instrName i) && decide (instrName i ∈ p.privSet)

/-- An instruction that accesses the I/O space: the ones FLAG.I allows in user mode (60_exceptions.md R217). -/
def isPortInstr (i : Instr) : Bool :=
  decide (instrName i = .inp) || decide (instrName i = .outp)

/-- MEM_PROTECT: does the access violate the limits (20_memory.md R69)? The recommended instance answers true exactly when P = 0
and the address lies outside the inclusive bounds, for every kind of access. -/
def memProtect (rule : ProtectRule) (p : Bool) (kind : AccessKind) (addr lower upper : Word) : Bool :=
  match rule with
  | .recommended => !p && (decide (addr.toNat < lower.toNat) || decide (upper.toNat < addr.toNat))
  | .other n => Config.memProtectFree n p kind addr lower upper

end Sys2Proof.Machine
end

