-- ==== Sys2Proof/Machine/State.lean ====
section
/-! DEFINITION. Machine/State.lean: the state of the machine, all of it plain data (10_state.md; 60_exceptions.md R207, R222),
its field updates, the reasons a step stops, and the state after reset (70_reset_and_hazards.md R240). -/

namespace Sys2Proof.Machine

/-- The state of the machine. -/
structure State where
  /-- G0..G12 (10_state.md R20) -/
  gr : Vector Word 13
  /-- SSP (R22) -/
  ssp : Word
  /-- USP (R22) -/
  usp : Word
  /-- PC (R26) -/
  pc : Word
  /-- FLAG (R28, R30) -/
  flag : Flags
  /-- set by HALT (R38 (a)) -/
  halted : Bool
  /-- irq[0..9], the pending bits of the interrupt sources (R38 (b)) -/
  irq : BitVec 10
  /-- the lower limit behind I/O port F4h (R38 (c)) -/
  lowerLimit : Word
  /-- the upper limit behind I/O port F6h (R38 (c)) -/
  upperLimit : Word
  /-- the memory space (R37) -/
  mem : Memory
  /-- the history of I/O accesses, oldest first (60_exceptions.md R222) -/
  ioLog : List IoEvent
  /-- the MODEL's own field: the index of the step, to which the free values of Config are applied (log 10) -/
  tick : Nat
  /-- the MODEL's own field: the parameters PRIV_SET, MEM_PROTECT and USER_RETI_MASK, arguments of the model that no step changes
  (00_scope.md R5; logs 6, 7, 8) -/
  params : Params
deriving DecidableEq, Repr

/-! ### Field updates -/

/-- Writes a general register. -/
def State.setGr (s : State) (n : Fin 13) (v : Word) : State := { s with gr := s.gr.set n v }
/-- Writes SSP. -/
def State.setSsp (s : State) (v : Word) : State := { s with ssp := v }
/-- Writes USP. -/
def State.setUsp (s : State) (v : Word) : State := { s with usp := v }
/-- Writes PC. -/
def State.setPc (s : State) (v : Word) : State := { s with pc := v }
/-- Writes FLAG. -/
def State.setFlag (s : State) (f : Flags) : State := { s with flag := f }
/-- Stops the CPU. -/
def State.setHalted (s : State) : State := { s with halted := true }
/-- Writes the lower limit. -/
def State.setLower (s : State) (v : Word) : State := { s with lowerLimit := v }
/-- Writes the upper limit. -/
def State.setUpper (s : State) (v : Word) : State := { s with upperLimit := v }
/-- Replaces the memory. -/
def State.setMem (s : State) (m : Memory) : State := { s with mem := m }
/-- Appends an event to the I/O history. -/
def State.logIo (s : State) (e : IoEvent) : State := { s with ioLog := s.ioLog ++ [e] }

/-! ### Reasons to stop -/

/-- The faults: the machine stops with a fault mark (00_scope.md R8). -/
inductive Fault where
  /-- A word access or an instruction fetch at an odd address (20_memory.md R56). Raised by the word reads and writes of
  Machine/Ops.lean. Safe: the hardware may trap, split the access or drop bit 0, and the model claims none of them. -/
  | misaligned
  /-- A read of a RAM, VRAM or vector byte that nothing has written (70_reset_and_hazards.md R242). Raised by the reads of
  Machine/Ops.lean. Safe: the hardware reads some value. -/
  | unwritten
  /-- A push or the vector read of trap entry cannot be made (60_exceptions.md R214). Raised by trap entry. Safe. -/
  | trapEntry
  /-- The stuck state after HALT: the CPU agent has no step (47_system.md R197). Raised by step. Safe: nothing is claimed of
  what restarts the CPU. -/
  | halted
deriving DecidableEq, Repr

/-- The refusals: the spec gives the word or the access no meaning (00_scope.md R8). All are safe: nothing is claimed of a run
that reaches one. -/
inductive Refusal where
  /-- An instruction without a meaning yet. Raised by exec's arms only; no arm raises it now. Safe. -/
  | notModelled (mnemonic : String)
  /-- A field the format shows as 0h is not zero (30_encoding.md R98). Raised by fetch. -/
  | nonZeroField
  /-- A jump word with condition digit Dh (30_encoding.md R100). Raised by fetch. -/
  | jumpConditionD
  /-- Register number Fh as an operand (10_state.md R27). Raised by fetch, and by the register operations on a term that is not
  well formed. -/
  | pcOperand
  /-- MULL or DIVL with an Rd that heads no admitted pair (42_mul_div.md R144). Raised by fetch, and by the two meanings on a
  term that is not well formed. -/
  | badRegisterPair
  /-- A write to F000h..FFDFh (20_memory.md R62). Raised by the memory writes of Machine/Ops.lean. -/
  | romWrite
  /-- A read or fetch of a ROM byte that the launch image does not give (20_memory.md R62). Raised by the memory reads. -/
  | romContent
  /-- An access to an I/O address the map leaves unused, 28h..F3h, or above 00FFh (20_memory.md R66). Raised by IN and OUT. -/
  | ioUnmapped
  /-- A 2-byte I/O access at an odd address (20_memory.md R66). Raised by IN and OUT. -/
  | ioMisaligned
  /-- A write to a port the map marks (In) or (IN) only (20_memory.md R66). Raised by OUT. -/
  | ioReadOnlyPort
deriving DecidableEq, Repr

/-- The machine right after reset (10_state.md R39; 70_reset_and_hazards.md R240; logs 1 to 8, 10, 13, 14). -/
def State.reset : State where
  gr := Vector.replicate 13 0#16
  ssp := 0#16
  usp := 0#16
  pc := Config.resetPc
  flag := Flags.ofWord Config.resetFlag
  halted := false
  irq := 0#10
  lowerLimit := 0#16
  upperLimit := 0#16
  mem := []
  ioLog := []
  tick := 0
  params := Params.recommended

end Sys2Proof.Machine
end

