-- ==== Sys2Proof/Machine/Ops.lean ====
section
/-! DEFINITION. Machine/Ops.lean: the named operations over registers and memory, the stack, taking a trap and returning from
one, and the frame every instruction runs in (privilege check, effect, trap). -/

namespace Sys2Proof.Machine

/-- What a shared operation answers: a value, an exception to be taken, a fault or a refusal (00_scope.md R8). -/
inductive Res (α : Type) where
  | ok (a : α)
  | raise (e : Exc)
  | fault (f : Fault)
  | refused (r : Refusal)
deriving DecidableEq, Repr

/-- Goes on with the value, or passes the stop on. -/
def Res.bind {α β : Type} (x : Res α) (k : α → Res β) : Res β :=
  match x with
  | .ok a => k a
  | .raise e => .raise e
  | .fault f => .fault f
  | .refused r => .refused r

/-- Applies a function to the value, or passes the stop on. -/
def Res.map {α β : Type} (x : Res α) (f : α → β) : Res β :=
  x.bind fun a => .ok (f a)

/-! ### Registers -/

/-- SP: SSP when P = 1, USP when P = 0 (10_state.md R23). -/
def State.sp (s : State) : Word := if s.flag.p then s.ssp else s.usp

/-- Writes the stack pointer that P selects (10_state.md R23). -/
def State.setSp (s : State) (v : Word) : State := if s.flag.p then s.setSsp v else s.setUsp v

/-- `x[r]`, the read of a register through its number (10_state.md R24, R27). -/
def readReg (s : State) (r : Reg) : Res Word :=
  match r with
  | .g n => .ok s.gr[n]
  | .sp => .ok s.sp
  | .usp => .ok s.usp
  | .pc => .refused .pcOperand

/-- `x[r] <- v`, the write of a register through its number (10_state.md R24, R27). -/
def writeReg (s : State) (r : Reg) (v : Word) : Res State :=
  match r with
  | .g n => .ok (s.setGr n v)
  | .sp => .ok (s.setSp v)
  | .usp => .ok (s.setUsp v)
  | .pc => .refused .pcOperand

/-! ### Memory -/

/-- Is the word address odd (20_memory.md R56)? -/
def isOdd (a : Word) : Bool := a.getLsbD 0

/-- The protection check of one byte: MEM_PROTECT of the mode, the access and the limit registers (20_memory.md R69). -/
def denied (s : State) (kind : AccessKind) (a : Word) : Bool :=
  memProtect s.params.memProtect s.flag.p kind a s.lowerLimit s.upperLimit

/-- The byte an address holds, without the protection check: a draw for an attribute byte (20_memory.md R61), the launch image
for ROM (R62), and what was last written elsewhere (R60, R63; 70_reset_and_hazards.md R242). -/
def byteAt (s : State) (kind : AccessKind) (a : Word) : Res Byte :=
  match regionOf a.toNat with
  | .attrib => .ok (Config.attributeDraw s.tick kind a)
  | .rom =>
    match s.mem.get a.toNat with
    | some b => .ok b
    | none => .refused .romContent
  | .ram | .vram | .vector =>
    match s.mem.get a.toNat with
    | some b => .ok b
    | none => .fault .unwritten

/-- `MemRead(a, 1)` (20_memory.md R52). -/
def readByte (s : State) (kind : AccessKind) (a : Word) : Res Byte :=
  if denied s kind a then .raise .limitViolation else byteAt s kind a

/-- `MemRead(a, 2)`, high byte first (20_memory.md R53, R56). -/
def readWord (s : State) (kind : AccessKind) (a : Word) : Res Word :=
  if isOdd a then .fault .misaligned
  else if denied s kind a || denied s kind (a + 1#16) then .raise .limitViolation
  else (byteAt s kind a).bind fun hi => (byteAt s kind (a + 1#16)).map fun lo => wordOfBytes hi lo

/-- Replaces the byte at an address where its region keeps it (20_memory.md R54, R61). -/
def State.storeByte (s : State) (a : Word) (v : Byte) : State := s.setMem (s.mem.store a v)

/-- Replaces the two bytes of a word, the high byte at `a` (20_memory.md R55). -/
def State.storeWord (s : State) (a : Word) (v : Word) : State :=
  (s.storeByte a (hiByte v)).storeByte (a + 1#16) (loByte v)

/-- `MemWrite(a, 1, v)` (20_memory.md R54, R62). -/
def writeByte (s : State) (kind : AccessKind) (a : Word) (v : Byte) : Res State :=
  if denied s kind a then .raise .limitViolation
  else if regionOf a.toNat = .rom then .refused .romWrite
  else .ok (s.storeByte a v)

/-- `MemWrite(a, 2, v)` (20_memory.md R55, R56, R62). -/
def writeWord (s : State) (kind : AccessKind) (a : Word) (v : Word) : Res State :=
  if isOdd a then .fault .misaligned
  else if denied s kind a || denied s kind (a + 1#16) then .raise .limitViolation
  else if regionOf a.toNat = .rom then .refused .romWrite
  else .ok (s.storeWord a v)

/-! ### The stack -/

/-- Pushes a word on the stack that P selects: SP - 2, then the write (46_stack_return.md R185 (a), (b)). A stopped push has
changed nothing (R185 (d)). -/
def push (s : State) (v : Word) : Res State :=
  (writeWord s .stack (s.sp - 2#16) v).map fun t => t.setSp (s.sp - 2#16)

/-- Pops a word from the stack that P selects: the read, then SP + 2 (46_stack_return.md R185 (a), (b)). -/
def pop (s : State) : Res (Word × State) :=
  (readWord s .stack s.sp).map fun v => (v, s.setSp (s.sp + 2#16))

/-! ### Taking a trap and returning from one -/

/-- The address of the word of vector n (20_memory.md R63). -/
def vectorAddr (n : Fin 16) : Word := 0xFFE0#16 + BitVec.ofNat 16 (2 * n.val)

/-- The vector number of an exception (60_exceptions.md R201). -/
def excVector (e : Exc) : Fin 16 :=
  match e with
  | .limitViolation => 11
  | .zeroDivide => 12
  | .privilegeViolation => 13
  | .undefinedInstruction => 14
  | .svc => 15

/-- The PC an exception saves: for SVC the address after it, for the others FAULT_PC (60_exceptions.md R212). -/
def savedPc (e : Exc) (pc : Word) (npc : Option Word) : Word :=
  match e, npc with
  | .svc, some n => n
  | .svc, none => pc
  | .limitViolation, _ => Config.faultPc .limitViolation pc npc
  | .zeroDivide, _ => Config.faultPc .zeroDivide pc npc
  | .privilegeViolation, _ => Config.faultPc .privilegeViolation pc npc
  | .undefinedInstruction, _ => Config.faultPc .undefinedInstruction pc npc

/-- P <- 1 and E <- 0, the first acts of trap entry (60_exceptions.md R211). -/
def trapFlags (f : Flags) : Flags := { f with e := false, p := true }

/-- The memory accesses and register writes of trap entry with vector number n and saved PC spc (60_exceptions.md R211): with
P = 1 and E = 0, push spc, push the old FLAG, load PC from the vector word. -/
def trapSteps (n : Fin 16) (spc : Word) (s : State) : Res State :=
  (push (s.setFlag (trapFlags s.flag)) spc).bind fun s1 =>
    (push s1 s.flag.toWord).bind fun s2 =>
      (readWord s2 .vector (vectorAddr n)).map fun h => s2.setPc h

/-- Trap entry (60_exceptions.md R211). A failure inside it is a fault (R214). -/
def trapEntry (n : Fin 16) (spc : Word) (s : State) : Host.Outcome State Fault Refusal :=
  match trapSteps n spc s with
  | .ok t => .next t
  | .raise _ => .fault .trapEntry
  | .fault _ => .fault .trapEntry
  | .refused _ => .fault .trapEntry

/-- Taking an exception: trap entry through its vector with the PC it saves (60_exceptions.md R201, R211, R212). -/
def takeExc (e : Exc) (npc : Option Word) (s : State) : Host.Outcome State Fault Refusal :=
  trapEntry (excVector e) (savedPc e s.pc npc) s

/-- FLAG after RETI pops the word f (46_stack_return.md R189): V, C, S, Z always; E, P, I when P = 1 before, and when P = 0 only
the bits of USER_RETI_MASK. -/
def retiFlags (mask : Word) (old : Flags) (f : Word) : Flags :=
  let new := Flags.ofWord f
  if old.p then new
  else
    { new with
      e := if mask.getLsbD 7 then new.e else old.e
      p := if mask.getLsbD 6 then new.p else old.p
      i := if mask.getLsbD 5 then new.i else old.i }

/-- Return from a trap (46_stack_return.md R189; 60_exceptions.md R215): FLAG, then PC, both popped from the stack that P
selects before the instruction. -/
def trapReturn (s : State) : Res State :=
  (readWord s .stack s.sp).bind fun f =>
    (readWord s .stack (s.sp + 2#16)).map fun t =>
      ((s.setSp (s.sp + 4#16)).setFlag (retiFlags s.params.userRetiMask s.flag f)).setPc t

/-! ### The frame of an instruction -/

/-- `npc`, the address of the instruction that follows (30_encoding.md R99). -/
def nextPc (i : Instr) (s : State) : Word := s.pc + BitVec.ofNat 16 i.byteLen

/-- The privilege check (60_exceptions.md R216, R217). -/
def privAllowed (i : Instr) (s : State) : Bool :=
  !inPrivSet s.params i || s.flag.p || (isPortInstr i && s.flag.i)

/-- The value, or the outcome of a stop: an exception is taken from the state `s` as it stood before the instruction
(60_exceptions.md R213). -/
def orStop {α : Type} (s : State) (npc : Option Word) (x : Res α) : Except (Host.Outcome State Fault Refusal) α :=
  match x with
  | .ok a => .ok a
  | .raise e => .error (takeExc e npc s)
  | .fault f => .error (.fault f)
  | .refused r => .error (.refused r)

/-- The outcome of an instruction's effect. -/
def conclude (s : State) (npc : Option Word) (x : Res State) : Host.Outcome State Fault Refusal :=
  match orStop s npc x with
  | .ok t => .next t
  | .error o => o

/-- Runs an instruction whose effect sets PC itself: the privilege check, then the effect (30_encoding.md R80 (5) to (7);
60_exceptions.md R208 (6) to (10)). -/
def perform (i : Instr) (s : State) (effect : Res State) : Host.Outcome State Fault Refusal :=
  conclude s (some (nextPc i s)) (if privAllowed i s then effect else .raise .privilegeViolation)

/-- Runs an instruction that goes on to the next one: `PC <- npc` after its effect (30_encoding.md R80 (7)). -/
def performSeq (i : Instr) (s : State) (effect : Res State) : Host.Outcome State Fault Refusal :=
  perform i s (effect.map fun t => t.setPc (nextPc i s))

end Sys2Proof.Machine
end

