-- ==== Sys2Proof/Machine/Operands.lean ====
section
/-! DEFINITION. Machine/Operands.lean: the operand of every addressing mode (30_encoding.md R85 to R92, R101), the target of a
jump (44_jump_call.md R160), the port of an I/O instruction (45_io.md R180), and the register pair (42_mul_div.md R144). -/

namespace Sys2Proof.Machine

/-- `sext_16` of a 4-bit field (00_scope.md R6). -/
def sext4 (n : Nibble) : Word := n.signExtend 16

/-- `zext_16` of a byte (00_scope.md R6). -/
def zext8 (b : Byte) : Word := b.setWidth 16

/-- `ea(m)`, the effective address of a memory mode; sums are modulo 65536 (R85, R86, R88, R91, R92). -/
def effAddr (s : State) (m : MemEA) : Res Word :=
  match m with
  | .drct dsp => .ok dsp
  | .idx dsp rx => (readReg s rx).map fun x => dsp + x
  | .fp d4 => (readReg s Reg.fp).map fun x => x + (sext4 d4 <<< 1)
  | .indr rx => readReg s rx
  | .bindr rx => readReg s rx

/-- `width(m)` is 1 for Byte Register Indirect and 2 otherwise (R101). -/
def MemEA.isByte : MemEA → Bool
  | .drct _ => false
  | .idx _ _ => false
  | .fp _ => false
  | .indr _ => false
  | .bindr _ => true

/-- The operand in memory: one read of the mode's width, a byte zero-extended (R85, R86, R88, R91, R92; 20_memory.md R57). -/
def loadMem (s : State) (m : MemEA) : Res Word :=
  (effAddr s m).bind fun a =>
    if MemEA.isByte m then (readByte s .read a).map zext8 else readWord s .read a

/-- `val(m)`, the operand of any mode (R85 to R92, R101). -/
def operand (s : State) (ea : EA) : Res Word :=
  match ea with
  | .mem m => loadMem s m
  | .imm w => .ok w
  | .reg rs => readReg s rs
  | .imm4 i4 => .ok (sext4 i4)

/-- The write of ST: one access of the mode's width, the low byte in Byte Register Indirect (40_no_load_store.md R124). -/
def storeMem (s : State) (m : MemEA) (v : Word) : Res State :=
  (effAddr s m).bind fun a =>
    if MemEA.isByte m then writeByte s .write a (loByte v) else writeWord s .write a v

/-- A jump mode as a memory mode: only its effective address is used (44_jump_call.md R160 (a)). -/
def JumpEA.asMem : JumpEA → MemEA
  | .drct dsp => .drct dsp
  | .idx dsp rx => .idx dsp rx
  | .indr rx => .indr rx

/-- The target of a jump or CALL (44_jump_call.md R160 (a)). -/
def jumpTarget (s : State) (ea : JumpEA) : Res Word := effAddr s (JumpEA.asMem ea)

/-- The I/O address of IN or OUT (45_io.md R180 (a)). -/
def portAddr (s : State) (ea : PortEA) : Res Word :=
  match ea with
  | .drct dsp => .ok dsp
  | .indr rx => readReg s rx
  | .bindr rx => readReg s rx

/-- The width of the I/O access (45_io.md R180 (a)). -/
def PortEA.width : PortEA → IoWidth
  | .drct _ => .word
  | .indr _ => .word
  | .bindr _ => .byte

/-- The high register Rd+1 of an admitted pair (42_mul_div.md R144). -/
def pairHigh (rd : Reg) : Res Reg :=
  match rd with
  | .g n => if h : n.val % 2 = 0 ∧ n.val ≤ 10 then .ok (.g ⟨n.val + 1, by omega⟩) else .refused .badRegisterPair
  | .sp => .refused .badRegisterPair
  | .usp => .refused .badRegisterPair
  | .pc => .refused .badRegisterPair

end Sys2Proof.Machine
end

