-- ==== Sys2Proof/Machine/Arith.lean ====
section
/-! DEFINITION. Machine/Arith.lean: ADD, SUB, CMP, AND, OR, XOR and ADDS (41_arith_logic.md). -/

namespace Sys2Proof.Machine

/-- Writes a 16-bit result to Rd and FLAG. -/
def writeResult (s : State) (rd : Reg) (r : Word) (fl : Flags) : Res State :=
  (writeReg s rd r).map fun t => t.setFlag fl

/-- The effect of a two-operand instruction with one 16-bit result: `r = f a b` to Rd, FLAG from the operands and the result
(41_arith_logic.md R130, R131). -/
def aluEffect (rd : Reg) (ea : EA) (s : State) (f : Word → Word → Word) (fl : Word → Word → Word → Flags) : Res State :=
  (readReg s rd).bind fun a =>
    (operand s ea).bind fun b =>
      writeResult s rd (f a b) (fl a b (f a b))

/-- ADD: `Rd <- Rd + [EA]` (R132). -/
def execAdd (rd : Reg) (ea : EA) (s : State) : Host.Outcome State Fault Refusal :=
  performSeq (.add rd ea) s (aluEffect rd ea s (fun a b => a + b) (fun a b r => addFlags s.flag a b r))

/-- SUB: `Rd <- Rd - [EA]` (R133). -/
def execSub (rd : Reg) (ea : EA) (s : State) : Host.Outcome State Fault Refusal :=
  performSeq (.sub rd ea) s (aluEffect rd ea s (fun a b => a - b) (fun a b r => subFlags s.flag a b r))

/-- CMP: the flags of SUB, no register written (R134). -/
def execCmp (rd : Reg) (ea : EA) (s : State) : Host.Outcome State Fault Refusal :=
  performSeq (.cmp rd ea) s
    ((readReg s rd).bind fun a => (operand s ea).map fun b => s.setFlag (subFlags s.flag a b (a - b)))

/-- AND: bitwise; C and V drawn (R135). -/
def execAnd (rd : Reg) (ea : EA) (s : State) : Host.Outcome State Fault Refusal :=
  performSeq (.and rd ea) s (aluEffect rd ea s (fun a b => a &&& b) (fun _ _ r => resultFlags s.tick s.flag r))

/-- OR: bitwise; C and V drawn (R136). -/
def execOr (rd : Reg) (ea : EA) (s : State) : Host.Outcome State Fault Refusal :=
  performSeq (.or rd ea) s (aluEffect rd ea s (fun a b => a ||| b) (fun _ _ r => resultFlags s.tick s.flag r))

/-- XOR: bitwise; C and V drawn (R137). -/
def execXor (rd : Reg) (ea : EA) (s : State) : Host.Outcome State Fault Refusal :=
  performSeq (.xor rd ea) s (aluEffect rd ea s (fun a b => a ^^^ b) (fun _ _ r => resultFlags s.tick s.flag r))

/-- ADDS: `Rd <- Rd + [EA]*2`, the operand doubled; C and V drawn (R138). -/
def execAdds (rd : Reg) (ea : EA) (s : State) : Host.Outcome State Fault Refusal :=
  performSeq (.adds rd ea) s (aluEffect rd ea s (fun a b => a + 2#16 * b) (fun _ _ r => resultFlags s.tick s.flag r))

end Sys2Proof.Machine
end

