-- ==== Sys2Proof/Machine/IoSpace.lean ====
section
/-! DEFINITION. Machine/IoSpace.lean: the I/O map and the accesses of IN and OUT (20_memory.md R65 to R67; 60_exceptions.md
R222, R228). -/

namespace Sys2Proof.Machine

/-- Is the I/O address in the map: 00h..27h or F4h..FFh (20_memory.md R65, R66)? -/
def ioMapped (a : Word) : Bool :=
  decide (a.toNat < 0x28) || (decide (0xF4 ≤ a.toNat) && decide (a.toNat ≤ 0xFF))

/-- Is the address a "00H" byte of the map, the even byte of an 8-bit port (20_memory.md R65)? -/
def ioZeroByte (a : Word) : Bool :=
  !isOdd a && ((decide (0x08 ≤ a.toNat) && decide (a.toNat < 0x28)) || a == 0xFC#16 || a == 0xFE#16)

/-- Does the address reach a port the map marks (In) or (IN) only: mode 1Fh, console address register FAh and FBh, rotary switch
FDh, function register FFh (20_memory.md R65)? -/
def ioReadOnly (a : Word) : Bool :=
  a == 0x1F#16 || a == 0xFA#16 || a == 0xFB#16 || a == 0xFD#16 || a == 0xFF#16

/-- One byte of an I/O read: 00h for a "00H" byte, else what the device oracle answers (20_memory.md R66; 60_exceptions.md
R222). -/
def ioByte (s : State) (a : Word) : Byte :=
  if ioZeroByte a then 0#8 else Config.ioAnswer s.ioLog a

/-- The value an I/O read answers, a byte zero-extended (20_memory.md R66; 45_io.md R181). -/
def ioValue (s : State) (w : IoWidth) (a : Word) : Word :=
  match w with
  | .word => wordOfBytes (ioByte s a) (ioByte s (a + 1#16))
  | .byte => zext8 (ioByte s a)

/-- The checks on an I/O address (20_memory.md R66). -/
def ioCheck (w : IoWidth) (a : Word) : Res Unit :=
  if w = .word ∧ isOdd a = true then .refused .ioMisaligned
  else if ioMapped a then .ok ()
  else .refused .ioUnmapped

/-- `IoRead(a, n)`: one access, entered in the I/O history with its answer (20_memory.md R58, R66). -/
def ioRead (s : State) (w : IoWidth) (a : Word) : Res (Word × State) :=
  (ioCheck w a).map fun _ => (ioValue s w a, s.logIo (.read a w (ioValue s w a)))

/-- The value of an I/O write that reaches the port: a 16-bit write to an 8-bit port drops bits 15:8 (20_memory.md R66), a byte
write takes bits 7:0 (45_io.md R182). -/
def ioDelivered (w : IoWidth) (a : Word) (v : Word) : Word :=
  match w with
  | .word => if ioZeroByte a then zext8 (loByte v) else v
  | .byte => zext8 (loByte v)

/-- Does the write reach an (In) port? -/
def ioHitsReadOnly (w : IoWidth) (a : Word) : Bool :=
  match w with
  | .word => ioReadOnly a || ioReadOnly (a + 1#16)
  | .byte => ioReadOnly a

/-- The limit registers after a write: a 16-bit OUT to F4h or F6h sets one (60_exceptions.md R228); what a byte OUT to one of
their addresses leaves is not stated, a free value (log 15). -/
def ioLimits (s : State) (w : IoWidth) (a : Word) (v : Word) : State :=
  match w with
  | .word =>
    if a = 0xF4#16 then s.setLower v
    else if a = 0xF6#16 then s.setUpper v
    else s
  | .byte =>
    if a = 0xF4#16 ∨ a = 0xF5#16 then s.setLower (Config.limitAfterByteOut s.tick s.lowerLimit a (loByte v))
    else if a = 0xF6#16 ∨ a = 0xF7#16 then s.setUpper (Config.limitAfterByteOut s.tick s.upperLimit a (loByte v))
    else s

/-- `IoWrite(a, n, v)`: one access, an event of the I/O history (20_memory.md R58, R66; 60_exceptions.md R222). -/
def ioWrite (s : State) (w : IoWidth) (a : Word) (v : Word) : Res State :=
  (ioCheck w a).bind fun _ =>
    if ioHitsReadOnly w a then .refused .ioReadOnlyPort
    else .ok ((ioLimits s w a v).logIo (.write a w (ioDelivered w a v)))

/-- The direction bit M of a byte written to the extension port Hi, 1 for output (20_memory.md R67). -/
def extHiOutput (b : Byte) : Bool := b.getLsbD 7

/-- The value VVVV of that byte, put on the lines I7 to I4 (20_memory.md R67). -/
def extHiLines (b : Byte) : Nibble := b.extractLsb' 0 4

end Sys2Proof.Machine
end

