-- ==== Sys2Proof/Machine/InOut.lean ====
section
/-! DEFINITION. Machine/InOut.lean: IN and OUT (45_io.md). -/

namespace Sys2Proof.Machine

/-- IN Rd,EA: one I/O read, its value to Rd (R181). -/
def execInp (rd : Reg) (ea : PortEA) (s : State) : Host.Outcome State Fault Refusal :=
  performSeq (.inp rd ea) s
    ((portAddr s ea).bind fun a => (ioRead s (PortEA.width ea) a).bind fun r => writeReg r.2 rd r.1)

/-- OUT Rd,EA: one I/O write of Rd, or of its low byte (R182). -/
def execOutp (rd : Reg) (ea : PortEA) (s : State) : Host.Outcome State Fault Refusal :=
  performSeq (.outp rd ea) s
    ((readReg s rd).bind fun v => (portAddr s ea).bind fun a => ioWrite s (PortEA.width ea) a v)

end Sys2Proof.Machine
end

