-- ==== Sys2Proof/Machine/Jump.lean ====
section
/-! DEFINITION. Machine/Jump.lean: the jumps and CALL (44_jump_call.md). -/

namespace Sys2Proof.Machine

/-- The effect of a jump: the target when the condition holds, else npc; no flag changes (44_jump_call.md R160). The register
field is read whether or not the jump is taken (R160 (f)). -/
def jumpEffect (i : Instr) (ea : JumpEA) (s : State) (taken : Bool) : Res State :=
  (jumpTarget s ea).map fun target => s.setPc (if taken then target else nextPc i s)

/-- JZ (R161). -/
def execJz (ea : JumpEA) (s : State) : Host.Outcome State Fault Refusal :=
  perform (.jz ea) s (jumpEffect (.jz ea) ea s (condJz s.flag))

/-- JC (R162). -/
def execJc (ea : JumpEA) (s : State) : Host.Outcome State Fault Refusal :=
  perform (.jc ea) s (jumpEffect (.jc ea) ea s (condJc s.flag))

/-- JM (R163). -/
def execJm (ea : JumpEA) (s : State) : Host.Outcome State Fault Refusal :=
  perform (.jm ea) s (jumpEffect (.jm ea) ea s (condJm s.flag))

/-- JO (R164). -/
def execJo (ea : JumpEA) (s : State) : Host.Outcome State Fault Refusal :=
  perform (.jo ea) s (jumpEffect (.jo ea) ea s (condJo s.flag))

/-- JGT (R165). -/
def execJgt (ea : JumpEA) (s : State) : Host.Outcome State Fault Refusal :=
  perform (.jgt ea) s (jumpEffect (.jgt ea) ea s (condJgt s.flag))

/-- JGE (R166). -/
def execJge (ea : JumpEA) (s : State) : Host.Outcome State Fault Refusal :=
  perform (.jge ea) s (jumpEffect (.jge ea) ea s (condJge s.flag))

/-- JLE (R167). -/
def execJle (ea : JumpEA) (s : State) : Host.Outcome State Fault Refusal :=
  perform (.jle ea) s (jumpEffect (.jle ea) ea s (condJle s.flag))

/-- JLT (R168). -/
def execJlt (ea : JumpEA) (s : State) : Host.Outcome State Fault Refusal :=
  perform (.jlt ea) s (jumpEffect (.jlt ea) ea s (condJlt s.flag))

/-- JNZ (R169). -/
def execJnz (ea : JumpEA) (s : State) : Host.Outcome State Fault Refusal :=
  perform (.jnz ea) s (jumpEffect (.jnz ea) ea s (condJnz s.flag))

/-- JNC (R170). -/
def execJnc (ea : JumpEA) (s : State) : Host.Outcome State Fault Refusal :=
  perform (.jnc ea) s (jumpEffect (.jnc ea) ea s (condJnc s.flag))

/-- JNM (R171). -/
def execJnm (ea : JumpEA) (s : State) : Host.Outcome State Fault Refusal :=
  perform (.jnm ea) s (jumpEffect (.jnm ea) ea s (condJnm s.flag))

/-- JNO (R172). -/
def execJno (ea : JumpEA) (s : State) : Host.Outcome State Fault Refusal :=
  perform (.jno ea) s (jumpEffect (.jno ea) ea s (condJno s.flag))

/-- JHI (R173). -/
def execJhi (ea : JumpEA) (s : State) : Host.Outcome State Fault Refusal :=
  perform (.jhi ea) s (jumpEffect (.jhi ea) ea s (condJhi s.flag))

/-- JLS (R174). -/
def execJls (ea : JumpEA) (s : State) : Host.Outcome State Fault Refusal :=
  perform (.jls ea) s (jumpEffect (.jls ea) ea s (condJls s.flag))

/-- JMP: unconditional (R175). -/
def execJmp (ea : JumpEA) (s : State) : Host.Outcome State Fault Refusal :=
  perform (.jmp ea) s (jumpEffect (.jmp ea) ea s true)

/-- CALL: the target from the registers before the push, then `npc` pushed, then `PC <- target` (R176). -/
def execCall (ea : JumpEA) (s : State) : Host.Outcome State Fault Refusal :=
  perform (.call ea) s
    ((jumpTarget s ea).bind fun target => (push s (nextPc (.call ea) s)).map fun t => t.setPc target)

end Sys2Proof.Machine
end

