-- ==== Sys2Proof/Machine/LoadStore.lean ====
section
/-! DEFINITION. Machine/LoadStore.lean: NO, LD, LD Rd,FLAG and ST (40_no_load_store.md). -/

namespace Sys2Proof.Machine

/-- NO: nothing but `PC <- npc` (R121). -/
def execNo (s : State) : Host.Outcome State Fault Refusal :=
  performSeq .no s (.ok s)

/-- LD Rd,EA: `x[Rd] <- val(m)`; no flag changes (R122). -/
def execLd (rd : Reg) (ea : EA) (s : State) : Host.Outcome State Fault Refusal :=
  performSeq (.ld rd ea) s ((operand s ea).bind fun b => writeReg s rd b)

/-- LD Rd,FLAG: `x[Rd] <- FLAG` (R123). -/
def execLdFlag (rd : Reg) (s : State) : Host.Outcome State Fault Refusal :=
  performSeq (.ldFlag rd) s (writeReg s rd s.flag.toWord)

/-- ST Rd,EA: the value of Rd, or its low byte, to the effective address; no read is made (R124). -/
def execSt (rd : Reg) (ea : MemEA) (s : State) : Host.Outcome State Fault Refusal :=
  performSeq (.st rd ea) s ((readReg s rd).bind fun v => storeMem s ea v)

end Sys2Proof.Machine
end

