-- ==== Sys2Proof/Machine/MulDiv.lean ====
section
/-! DEFINITION. Machine/MulDiv.lean: MUL, DIV, MOD, MULL and DIVL (42_mul_div.md), with the configuration functions fixed where the signed and unsigned readings agree. -/

namespace Sys2Proof.Machine

/-- The domain on which the signed and unsigned readings of a quotient agree: a[15] = 0 and b[15] = 0 (R142). -/
def bothNonNegative (a b : Word) : Bool := !signBit a && !signBit b

/-- DIV_FN (R142): fixed on its domain, free elsewhere (log 11). -/
def divFn (a b : Word) : Word :=
  if bothNonNegative a b then BitVec.ofNat 16 (a.toNat / b.toNat) else Config.divFree a b

/-- MOD_FN (R143): fixed on its domain, free elsewhere (log 11). -/
def modFn (a b : Word) : Word :=
  if bothNonNegative a b then BitVec.ofNat 16 (a.toNat % b.toNat) else Config.modFree a b

/-- MULL_HI_FN (R145): fixed on its domain, free elsewhere (log 11). -/
def mullHiFn (a b : Word) : Word :=
  if bothNonNegative a b then BitVec.ofNat 16 (a.toNat * b.toNat / 65536) else Config.mullHiFree a b

/-- The fixed domain of DIVL_FN: D[31] = 0, b[15] = 0 and a quotient of at most 7FFFh (R146). -/
def divlFixed (d : BitVec 32) (b : Word) : Bool :=
  !d.msb && !signBit b && decide (d.toNat / b.toNat ≤ 0x7FFF)

/-- The quotient of DIVL_FN (R146): fixed on its domain, free elsewhere (log 11). -/
def divlQuot (d : BitVec 32) (b : Word) : Word :=
  if divlFixed d b then BitVec.ofNat 16 (d.toNat / b.toNat) else Config.divlQuotFree d b

/-- The remainder of DIVL_FN (R146): fixed on its domain, free elsewhere (log 11). -/
def divlRem (d : BitVec 32) (b : Word) : Word :=
  if divlFixed d b then BitVec.ofNat 16 (d.toNat % b.toNat) else Config.divlRemFree d b

/-- The effect of DIV and MOD: ZeroDivide when the operand is zero, after it has been read and before anything is written
(R142, R143; 60_exceptions.md R204), else the result with C and V drawn. -/
def divEffect (rd : Reg) (ea : EA) (s : State) (f : Word → Word → Word) : Res State :=
  (readReg s rd).bind fun a =>
    (operand s ea).bind fun b =>
      if b = 0#16 then .raise .zeroDivide
      else writeResult s rd (f a b) (resultFlags s.tick s.flag (f a b))

/-- MUL: the low 16 bits of the product; C and V drawn (R141). -/
def execMul (rd : Reg) (ea : EA) (s : State) : Host.Outcome State Fault Refusal :=
  performSeq (.mul rd ea) s (aluEffect rd ea s (fun a b => a * b) (fun _ _ r => resultFlags s.tick s.flag r))

/-- DIV: ZeroDivide for a zero operand, else DIV_FN (R142). -/
def execDiv (rd : Reg) (ea : EA) (s : State) : Host.Outcome State Fault Refusal :=
  performSeq (.div rd ea) s (divEffect rd ea s divFn)

/-- MOD: ZeroDivide for a zero operand, else MOD_FN (R143). -/
def execMod (rd : Reg) (ea : EA) (s : State) : Host.Outcome State Fault Refusal :=
  performSeq (.mod rd ea) s (divEffect rd ea s modFn)

/-- Writes the pair (Rd+1, Rd) and draws all four flags (R144, R145, R146; 41_arith_logic.md R130 (d)). -/
def writePair (s : State) (rd rdHigh : Reg) (low high : Word) : Res State :=
  (writeReg s rd low).bind fun t =>
    (writeReg t rdHigh high).map fun u => u.setFlag (drawnFlags s.tick s.flag)

/-- MULL: `(Rd+1,Rd) <- Rd x [EA]` (R145). -/
def execMull (rd : Reg) (ea : EA) (s : State) : Host.Outcome State Fault Refusal :=
  performSeq (.mull rd ea) s
    ((pairHigh rd).bind fun hi =>
      (readReg s rd).bind fun a =>
        (operand s ea).bind fun b => writePair s rd hi (a * b) (mullHiFn a b))

/-- DIVL: quotient of the pair to Rd, remainder to Rd+1, both from the pair as it stood (R146). -/
def execDivl (rd : Reg) (ea : EA) (s : State) : Host.Outcome State Fault Refusal :=
  performSeq (.divl rd ea) s
    ((pairHigh rd).bind fun hi =>
      (readReg s hi).bind fun high =>
        (readReg s rd).bind fun low =>
          (operand s ea).bind fun b =>
            if b = 0#16 then .raise .zeroDivide
            else writePair s rd hi (divlQuot (high ++ low) b) (divlRem (high ++ low) b))

end Sys2Proof.Machine
end

