-- ==== Sys2Proof/Machine/Shift.lean ====
section
/-! DEFINITION. Machine/Shift.lean: SHLA, SHLL, SHRA and SHRL (43_shift.md). -/

namespace Sys2Proof.Machine

/-- The result of a shift: fixed for a count of 0 to 15, SHIFT_FN above, and the same for SHLA and SHLL at every count
(43_shift.md R150 (d), R151, R153; log 12). -/
def shiftResult (op : ShiftOp) (a b : Word) : Word :=
  if b.toNat < 16 then
    match op with
    | .left => a <<< b.toNat
    | .rightArith => a.sshiftRight b.toNat
    | .rightLogical => a >>> b.toNat
  else Config.shiftFree op a b

/-- SHLA (R152): C and V drawn (R150 (d)). -/
def execShla (rd : Reg) (ea : EA) (s : State) : Host.Outcome State Fault Refusal :=
  performSeq (.shla rd ea) s (aluEffect rd ea s (shiftResult .left) (fun _ _ r => resultFlags s.tick s.flag r))

/-- SHLL (R153): C and V drawn (R150 (d)). -/
def execShll (rd : Reg) (ea : EA) (s : State) : Host.Outcome State Fault Refusal :=
  performSeq (.shll rd ea) s (aluEffect rd ea s (shiftResult .left) (fun _ _ r => resultFlags s.tick s.flag r))

/-- SHRA (R154): C and V drawn (R150 (d)). -/
def execShra (rd : Reg) (ea : EA) (s : State) : Host.Outcome State Fault Refusal :=
  performSeq (.shra rd ea) s (aluEffect rd ea s (shiftResult .rightArith) (fun _ _ r => resultFlags s.tick s.flag r))

/-- SHRL (R155): C and V drawn (R150 (d)). -/
def execShrl (rd : Reg) (ea : EA) (s : State) : Host.Outcome State Fault Refusal :=
  performSeq (.shrl rd ea) s (aluEffect rd ea s (shiftResult .rightLogical) (fun _ _ r => resultFlags s.tick s.flag r))

end Sys2Proof.Machine
end

