-- ==== Sys2Proof/Machine/Stack.lean ====
section
/-! DEFINITION. Machine/Stack.lean: PUSH, POP, RET and RETI (46_stack_return.md). -/

namespace Sys2Proof.Machine

/-- PUSH Rd: the value of Rd before the decrement (R186). -/
def execPush (rd : Reg) (s : State) : Host.Outcome State Fault Refusal :=
  performSeq (.push rd) s ((readReg s rd).bind fun v => push s v)

/-- POP Rd: the popped word is written after SP's increment, so it wins when Rd is the stack pointer (R187). -/
def execPop (rd : Reg) (s : State) : Host.Outcome State Fault Refusal :=
  performSeq (.pop rd) s ((pop s).bind fun r => writeReg r.2 rd r.1)

/-- RET: PC from the stack (R188). -/
def execRet (s : State) : Host.Outcome State Fault Refusal :=
  perform .ret s ((pop s).map fun r => r.2.setPc r.1)

/-- RETI: FLAG and PC from the stack (R189). -/
def execReti (s : State) : Host.Outcome State Fault Refusal :=
  perform .reti s (trapReturn s)

end Sys2Proof.Machine
end

