-- ==== Sys2Proof/Machine/System.lean ====
section
/-! DEFINITION. Machine/System.lean: EI, DI, SVC and HALT (47_system.md). -/

namespace Sys2Proof.Machine

/-- EI: `E <- 1` (R193). -/
def execEi (s : State) : Host.Outcome State Fault Refusal :=
  performSeq .ei s (.ok (s.setFlag { s.flag with e := true }))

/-- DI: `E <- 0` (R194). -/
def execDi (s : State) : Host.Outcome State Fault Refusal :=
  performSeq .di s (.ok (s.setFlag { s.flag with e := false }))

/-- SVC: trap entry with vector number 15 and npc saved (R195). -/
def execSvc (s : State) : Host.Outcome State Fault Refusal :=
  perform .svc s (.raise .svc)

/-- HALT: `PC <- npc`; `halted <- 1` (R197). -/
def execHalt (s : State) : Host.Outcome State Fault Refusal :=
  performSeq .halt s (.ok s.setHalted)

end Sys2Proof.Machine
end

