-- ==== Sys2Proof/Machine/Fetch.lean ====
section
/-! DEFINITION. Machine/Fetch.lean: the interrupt check before an instruction, the fetch and decoding of an instruction, and the
devices' move after it (30_encoding.md R80; 60_exceptions.md R207, R208, R209, R221). -/

namespace Sys2Proof.Machine

/-- The ten interrupt sources in the order of the vector table (60_exceptions.md R201). -/
def irqSources : List (Fin 10) := [0, 1, 2, 3, 4, 5, 6, 7, 8, 9]

/-- The source taken among the pending ones: the one that is pending, or when there are several the one IRQ_PRIORITY names (the
first pending one where it names none of them; R221, log 13). -/
def selectIrq (irq : BitVec 10) : Option (Fin 10) :=
  match irqSources.filter fun n => irq.getLsbD n.val with
  | [] => none
  | [n] => some n
  | n :: _ :: _ => if irq.getLsbD (Config.irqPriority irq).val then some (Config.irqPriority irq) else some n

/-- The interrupt to be taken before the next fetch: none while E = 0 (60_exceptions.md R206, R209). -/
def pendingInterrupt (s : State) : Option (Fin 10) :=
  if s.flag.e then selectIrq s.irq else none

/-- The vector number of an interrupt source (60_exceptions.md R200). -/
def irqVector (n : Fin 10) : Fin 16 := ⟨n.val, by omega⟩

/-- Taking an interrupt: the saved PC is that of the instruction not yet executed (60_exceptions.md R209, R212). -/
def takeInterrupt (n : Fin 10) (s : State) : Host.Outcome State Fault Refusal :=
  trapEntry (irqVector n) s.pc s

/-- What a decoding error does: the exception of 30_encoding.md R97, or a refusal of 60_exceptions.md R208 (5). -/
def wordErrorRes (e : WordError) : Res Instr :=
  match e with
  | .undefinedOp => .raise .undefinedInstruction
  | .nonZeroField => .refused .nonZeroField
  | .jumpConditionD => .refused .jumpConditionD
  | .pcOperand => .refused .pcOperand
  | .badRegisterPair => .refused .badRegisterPair

/-- The instruction of the fetched words. -/
def decodeRes (w1 w2 : Word) : Res Instr :=
  match decodeWords w1 w2 with
  | .ok i => .ok i
  | .error e => wordErrorRes e

/-- Fetch and decoding (30_encoding.md R80 (1) to (5); order of stops 60_exceptions.md R208 (2) to (5)): the first word, its OP,
the second word where the format has one, the other fields. Where the length is not known no npc goes into FAULT_PC. -/
def fetch (s : State) : Except (Host.Outcome State Fault Refusal) Instr :=
  (orStop s none (readWord s .fetch s.pc)).bind fun w1 =>
    match needsSecondWord w1 with
    | none => .error (takeExc .undefinedInstruction none s)
    | some false => orStop s none (decodeRes w1 0#16)
    | some true =>
      (orStop s (some (s.pc + 4#16)) (readWord s .fetch (s.pc + 2#16))).bind fun w2 => orStop s none (decodeRes w1 w2)

/-- The devices' move after a step: they leave any pending bits (60_exceptions.md R207), and the step index advances. -/
def endStep (s : State) : State :=
  { s with irq := Config.irqRequests s.tick, tick := s.tick + 1 }

/-- The devices' move on an outcome. -/
def settle (o : Host.Outcome State Fault Refusal) : Host.Outcome State Fault Refusal :=
  match o with
  | .next s => .next (endStep s)
  | .fault f => .fault f
  | .refused r => .refused r

end Sys2Proof.Machine
end

