-- ==== Sys2Proof/Machine/Step.lean ====
section
/-! DEFINITION. Machine/Step.lean: one step of the machine (30_encoding.md R80; 60_exceptions.md R209), and the placing of an
instruction where the next step fetches it. -/

namespace Sys2Proof.Machine

/-- The CPU agent's part of a step when it is not halted: take an interrupt, or fetch and run one instruction
(60_exceptions.md R209; 30_encoding.md R80). -/
def cpuStep (s : State) : Host.Outcome State Fault Refusal :=
  match pendingInterrupt s with
  | some n => takeInterrupt n s
  | none =>
    match fetch s with
    | .ok i => exec i s
    | .error o => o

/-- One step: a halted CPU has none (47_system.md R197); otherwise the CPU's part, then the devices' move. -/
def step (s : State) : Host.Outcome State Fault Refusal :=
  if s.halted then .fault .halted else settle (cpuStep s)

/-- The state with an instruction, given as one number with its first word in bits 15..0, stored at PC as two words. It stands
for the loading of a program from outside the machine (20_memory.md R62; 70_reset_and_hazards.md R241; log 5), so it also
places bytes in ROM. -/
def State.withFetchWord (s : State) (nbits w : Nat) : State :=
  (s.storeWord s.pc (tableWord nbits w 0)).storeWord (s.pc + 2#16) (tableWord nbits w 1)

end Sys2Proof.Machine
end

