-- ==== Sys2Proof/Safety.lean ====
section
/-! DEFINITION. Safety.lean: the terms claims are made in: what a step may leave unchanged, the invariant of the memory, what a
safe run is. They are written from the spec's tables (10_state.md R24, R28; 20_memory.md R61 to R63) and not from the machine's
own operations, but for the read of one byte and the addresses. -/

namespace Sys2Proof.Machine

/-- The registers of `t` are those of `s` after `x[rd] <- v`, by the register table (10_state.md R24). -/
def RegsAfterWrite (rd : Reg) (v : Word) (s t : State) : Prop :=
  (∀ n : Fin 13, t.gr[n] = if rd = .g n then v else s.gr[n]) ∧
    (t.ssp = if rd = .sp ∧ s.flag.p = true then v else s.ssp) ∧
    (t.usp = if rd = .usp ∨ (rd = .sp ∧ s.flag.p = false) then v else s.usp)

/-- No general register and no stack pointer differs. -/
def RegsKept (s t : State) : Prop :=
  (∀ n : Fin 13, t.gr[n] = s.gr[n]) ∧ t.ssp = s.ssp ∧ t.usp = s.usp

/-- Every byte of memory reads as before. -/
def MemKept (s t : State) : Prop :=
  ∀ (k : AccessKind) (b : Word), byteAt t k b = byteAt s k b

/-- Every byte of memory but the one at `a` reads as before. -/
def MemKeptButByte (a : Word) (s t : State) : Prop :=
  ∀ (k : AccessKind) (b : Word), b ≠ a → byteAt t k b = byteAt s k b

/-- Every byte of memory but the two of the word at `a` reads as before. -/
def MemKeptButWord (a : Word) (s t : State) : Prop :=
  ∀ (k : AccessKind) (b : Word), b ≠ a → b ≠ a + 1#16 → byteAt t k b = byteAt s k b

/-- The word at `a` of `t` is `v`, high byte at `a` (20_memory.md R51), each byte where its region holds one (R61). -/
def WordStored (a v : Word) (t : State) : Prop :=
  (regionOf a.toNat ≠ .attrib → ∀ k, byteAt t k a = .ok (v.extractLsb' 8 8)) ∧
    (regionOf (a + 1#16).toNat ≠ .attrib → ∀ k, byteAt t k (a + 1#16) = .ok (v.extractLsb' 0 8))

/-- HALT's bit, the pending bits, the limit registers, the I/O history, the step index and the model's parameters are as before. -/
def RestKept (s t : State) : Prop :=
  t.halted = s.halted ∧ t.irq = s.irq ∧ t.lowerLimit = s.lowerLimit ∧ t.upperLimit = s.upperLimit ∧ t.ioLog = s.ioLog ∧
    t.tick = s.tick ∧ t.params = s.params

/-- The system flags E, P and I are as before. -/
def SystemFlagsKept (s t : State) : Prop :=
  t.flag.e = s.flag.e ∧ t.flag.p = s.flag.p ∧ t.flag.i = s.flag.i

/-- Z and S are those of the 16-bit result `r`, and E, P and I are as before (41_arith_logic.md R130 (a), (e)). -/
def ResultFlags (r : Word) (s t : State) : Prop :=
  t.flag.z = decide (r = 0#16) ∧ t.flag.s = r.getLsbD 15 ∧ SystemFlagsKept s t

/-- A 2-byte access at `a` is aligned and allowed (20_memory.md R56, R69). -/
def WordAllowed (s : State) (k : AccessKind) (a : Word) : Prop :=
  isOdd a = false ∧ denied s k a = false ∧ denied s k (a + 1#16) = false

/-- A 2-byte write at `a` can be made: aligned, allowed and not into ROM (20_memory.md R56, R62, R69). -/
def WordWritable (s : State) (k : AccessKind) (a : Word) : Prop :=
  WordAllowed s k a ∧ regionOf a.toNat ≠ .rom

/-- The invariant of the memory: its canonical form. -/
def Inv (s : State) : Prop := s.mem.wf = true

/-- No byte of ROM differs (20_memory.md R62). -/
def RomKept (s t : State) : Prop :=
  ∀ a : Nat, regionOf a = .rom → t.mem.get a = s.mem.get a

/-- The instructions whose flag column is a circle: they write V, C, S and Z (10_state.md R31 (a)). -/
def writesCond (i : Instr) : Bool :=
  match i with
  | .no => false
  | .ld _ _ => false
  | .st _ _ => false
  | .ldFlag _ => false
  | .add _ _ => true
  | .sub _ _ => true
  | .cmp _ _ => true
  | .and _ _ => true
  | .or _ _ => true
  | .xor _ _ => true
  | .adds _ _ => true
  | .mul _ _ => true
  | .div _ _ => true
  | .mod _ _ => true
  | .mull _ _ => true
  | .divl _ _ => true
  | .shla _ _ => true
  | .shll _ _ => true
  | .shra _ _ => true
  | .shrl _ _ => true
  | .jz _ => false
  | .jc _ => false
  | .jm _ => false
  | .jo _ => false
  | .jgt _ => false
  | .jge _ => false
  | .jle _ => false
  | .jlt _ => false
  | .jnz _ => false
  | .jnc _ => false
  | .jnm _ => false
  | .jno _ => false
  | .jhi _ => false
  | .jls _ => false
  | .jmp _ => false
  | .call _ => false
  | .inp _ _ => false
  | .outp _ _ => false
  | .push _ => false
  | .pop _ => false
  | .ret => false
  | .reti => false
  | .ei => false
  | .di => false
  | .svc => false
  | .halt => false

/-- The instruction changes PC alone: it answers a next state with PC at `target`. -/
def GoesTo (i : Instr) (s : State) (target : Word) : Prop :=
  exec i s = .next (s.setPc target)

/-- The instruction completes with the 16-bit result `r` in `rd`: registers by the register table, Z and S of the result, PC at the
next instruction, memory and everything else as before. C and V are not spoken of (41_arith_logic.md R130 (d)). -/
def SingleResult (i : Instr) (rd : Reg) (r : Word) (s : State) : Prop :=
  ∃ t, exec i s = .next t ∧ RegsAfterWrite rd r s t ∧ ResultFlags r s t ∧ t.pc = nextPc i s ∧ MemKept s t ∧ RestKept s t

/-- The registers after `low` and `high` are written to the pair of G`lo` and G`hi` (42_mul_div.md R144). -/
def PairAfterWrite (lo hi : Fin 13) (low high : Word) (s t : State) : Prop :=
  t.gr[lo] = low ∧ t.gr[hi] = high ∧ (∀ n : Fin 13, n ≠ lo → n ≠ hi → t.gr[n] = s.gr[n]) ∧ t.ssp = s.ssp ∧ t.usp = s.usp

/-- What a push of `v` leaves: the stack pointer of the mode 2 lower, the word stored there, no other register and no other byte
changed (46_stack_return.md R185 (a), (b)). -/
def PushEffect (v : Word) (s t : State) : Prop :=
  (∀ n : Fin 13, t.gr[n] = s.gr[n]) ∧
    (t.ssp = if s.flag.p = true then s.ssp - 2#16 else s.ssp) ∧
    (t.usp = if s.flag.p = true then s.usp else s.usp - 2#16) ∧
    WordStored ((if s.flag.p = true then s.ssp else s.usp) - 2#16) v t ∧
    MemKeptButWord ((if s.flag.p = true then s.ssp else s.usp) - 2#16) s t

/-- Every byte outside the four of a trap frame, which lie below SSP, reads as before. -/
def MemKeptButFrame (s t : State) : Prop :=
  ∀ (k : AccessKind) (b : Word), b ≠ s.ssp - 1#16 → b ≠ s.ssp - 2#16 → b ≠ s.ssp - 3#16 → b ≠ s.ssp - 4#16 →
    byteAt t k b = byteAt s k b

/-- MEM_PROTECT lets a 2-byte access at `a` be made with P = 1, the mode that trap entry is in (20_memory.md R69). -/
def SystemAllowed (s : State) (k : AccessKind) (a : Word) : Prop :=
  memProtect s.params.memProtect true k a s.lowerLimit s.upperLimit = false ∧
    memProtect s.params.memProtect true k (a + 1#16) s.lowerLimit s.upperLimit = false

/-- Trap entry with vector number n and saved PC spc can be made: SSP is even, neither word of the frame lies in ROM, MEM_PROTECT
allows its accesses, and the vector word can be read once the frame is written (60_exceptions.md R211, R214). -/
def TrapReady (n : Fin 16) (spc : Word) (s : State) : Prop :=
  isOdd s.ssp = false ∧ regionOf (s.ssp - 2#16).toNat ≠ .rom ∧ regionOf (s.ssp - 4#16).toNat ≠ .rom ∧
    SystemAllowed s .stack (s.ssp - 2#16) ∧ SystemAllowed s .stack (s.ssp - 4#16) ∧ SystemAllowed s .vector (vectorAddr n) ∧
    ∃ hi lo : Byte,
      byteAt ((s.storeWord (s.ssp - 2#16) spc).storeWord (s.ssp - 4#16) s.flag.toWord) .vector (vectorAddr n) = .ok hi ∧
        byteAt ((s.storeWord (s.ssp - 2#16) spc).storeWord (s.ssp - 4#16) s.flag.toWord) .vector (vectorAddr n + 1#16) = .ok lo

/-- What trap entry with vector number n and saved PC spc leaves (60_exceptions.md R211): the PC word and under it the FLAG word on
the system stack, P set and E cleared, PC at the handler of the vector table, everything else as before. -/
def TrapEffect (n : Fin 16) (spc : Word) (s t : State) : Prop :=
  (∀ m : Fin 13, t.gr[m] = s.gr[m]) ∧ t.usp = s.usp ∧ t.ssp = s.ssp - 4#16 ∧
    t.flag = { s.flag with e := false, p := true } ∧
    WordStored (s.ssp - 2#16) spc t ∧ WordStored (s.ssp - 4#16) s.flag.toWord t ∧ MemKeptButFrame s t ∧ RestKept s t ∧
    ∃ hi lo : Byte, byteAt t .vector (0xFFE0#16 + BitVec.ofNat 16 (2 * n.val)) = .ok hi ∧
      byteAt t .vector (0xFFE1#16 + BitVec.ofNat 16 (2 * n.val)) = .ok lo ∧ t.pc = hi ++ lo

/-- The CPU is about to fetch: it is not halted and no interrupt is to be taken (60_exceptions.md R209). -/
def AboutToFetch (s : State) : Prop :=
  s.halted = false ∧ pendingInterrupt s = none

/-- The words at PC, as fetched, hold the instruction i (30_encoding.md R80 (1) to (5)). -/
def HoldsInstr (s : State) (i : Instr) : Prop :=
  ∃ w1 w2 : Word, readWord s .fetch s.pc = .ok w1 ∧
    (needsSecondWord w1 = some true → readWord s .fetch (s.pc + 2#16) = .ok w2) ∧ decodeWords w1 w2 = .ok i

/-- The OP values of the blank cells of the opcode map, as the spec lists them (30_encoding.md R97). -/
def isBlankOp (op : Nat) : Bool :=
  (decide (0x01 ≤ op) && decide (op ≤ 0x07)) || op == 0x12 || op == 0x15 || (decide (0x78 ≤ op) && decide (op ≤ 0x7F)) ||
    (decide (0xA2 ≤ op) && decide (op ≤ 0xA5)) || op == 0xA7 || (decide (0xAA ≤ op) && decide (op ≤ 0xAD)) || op == 0xAF ||
    (decide (0xB1 ≤ op) && decide (op ≤ 0xB5)) || (decide (0xB9 ≤ op) && decide (op ≤ 0xBD)) ||
    (decide (0xC1 ≤ op) && decide (op ≤ 0xC3)) || (decide (0xC5 ≤ op) && decide (op ≤ 0xCF)) ||
    (decide (0xD1 ≤ op) && decide (op ≤ 0xD3)) || (decide (0xD5 ≤ op) && decide (op ≤ 0xDF)) ||
    (decide (0xE1 ≤ op) && decide (op ≤ 0xE3)) || (decide (0xE5 ≤ op) && decide (op ≤ 0xEF)) ||
    (decide (0xF1 ≤ op) && decide (op ≤ 0xFE))

/-- The I/O address is in the map and a 2-byte access to it is even (20_memory.md R65, R66). -/
def IoAddressable (w : IoWidth) (port : Word) : Prop :=
  (port.toNat < 0x28 ∨ (0xF4 ≤ port.toNat ∧ port.toNat ≤ 0xFF)) ∧ (w = .word → isOdd port = false)

/-- A safe run of k steps: none of them faults or refuses. -/
def SafeRun (k : Nat) (s : State) : Prop :=
  ∃ t : State, Sys2Proof.core.run k s = .next t

end Sys2Proof.Machine
end

