-- ==== Sys2Proof/Certificates/Slice0/Obligations.lean ====
section
/-! DEFINITION. Certificates/Slice0/Obligations.lean: the statements for the provers, from the numbered rules of spec/. Where a
statement rests on a decision of the spec or on a choice of the model, its docstring names the decision and the log entry. -/

section
open Sys2Proof Sys2Proof.Machine

/-! ### Encoding -/

/-- 30_encoding.md R81 to R100: the decoder reads back the words of every instruction the spec gives a meaning, with every operand,
whatever bytes follow. -/
def Obligations.DecodeAfterEncode : Prop :=
  ∀ (i : Instr) (rest : List Byte), i.wellFormed = true → decode (encodeBytes i ++ rest) = .ok (i, rest)

/-- 30_encoding.md R81 to R100: what the decoder answers is an instruction the spec gives a meaning, and the bytes it took are that
instruction's words: no bit is ignored (the check of the 0h fields is decision D19, log 23). -/
def Obligations.EncodeAfterDecode : Prop :=
  ∀ (bytes rest : List Byte) (i : Instr), decode bytes = .ok (i, rest) →
    i.wellFormed = true ∧ encodeBytes i ++ rest = bytes

/-- The examples of 30_encoding.md R102, a sanity statement. -/
def Obligations.SpecExamplesDecode : Prop :=
  decodeTableWord 32 0x12340810 = some (.ld (.g 1) (.mem (.drct 0x1234#16))) ∧
    decodeTableWord 32 0x01001923 = some (.add (.g 2) (.mem (.idx 0x0100#16 (.g 3)))) ∧
    decodeTableWord 32 0x10000A00 = some (.ld (.g 0) (.imm 0x1000#16)) ∧
    decodeTableWord 16 0x0B02 = some (.ld (.g 0) (.mem (.fp 2#4))) ∧
    decodeTableWord 16 0x2445 = some (.sub (.g 4) (.reg (.g 5))) ∧
    decodeTableWord 16 0x2D1F = some (.cmp (.g 1) (.imm4 15#4)) ∧
    decodeTableWord 16 0x1601 = some (.st (.g 0) (.indr (.g 1))) ∧
    decodeTableWord 16 0x0F02 = some (.ld (.g 0) (.mem (.bindr (.g 2)))) ∧
    decodeTableWord 16 0xC030 = some (.push (.g 3)) ∧
    decodeTableWord 16 0xD000 = some .ret ∧
    decodeTableWord 16 0x1400 = some (.ldFlag (.g 0)) ∧
    decodeTableWord 32 0x0100A000 = some (.jz (.drct 0x0100#16)) ∧
    decodeTableWord 16 0xA6F1 = some (.jmp (.indr (.g 1))) ∧
    decodeTableWord 32 0x0200A800 = some (.call (.drct 0x0200#16))

/-- 30_encoding.md R99: the length is decided by OP alone, 2 words exactly for the rows 00001..10111 but 01111 and the columns 0, 1,
2 of a non-blank cell, else 1 word; npc is PC + 4 or PC + 2; a blank cell has no length: it traps through vector 14 (R97,
60_exceptions.md R205: decision D20, log 24), and no npc goes into FAULT_PC (R212: decision D24; the model's choice, log 9). -/
def Obligations.InstructionLength : Prop :=
  (∀ w1 : Word, needsSecondWord w1 = some true ↔
      1 ≤ opRow (opField w1) ∧ opRow (opField w1) ≤ 23 ∧ opRow (opField w1) ≠ 15 ∧ opCol (opField w1) ≤ 2 ∧
        opCell (opRow (opField w1)) (opCol (opField w1)) ≠ none) ∧
    (∀ w1 : Word, needsSecondWord w1 = none ↔ opCell (opRow (opField w1)) (opCol (opField w1)) = none) ∧
    (∀ (w1 w2 : Word) (i : Instr) (s : State), decodeWords w1 w2 = .ok i →
      (needsSecondWord w1 = some true → nextPc i s = s.pc + 4#16) ∧
        (needsSecondWord w1 = some false → nextPc i s = s.pc + 2#16)) ∧
    (∀ (s : State) (w1 : Word), AboutToFetch s → readWord s .fetch s.pc = .ok w1 → needsSecondWord w1 = none →
      step s = settle (trapEntry 14 (Config.faultPc .undefinedInstruction s.pc none) s))

/-- 30_encoding.md R85, R87 to R91: words, effective address and operand of the six modes whose rules carry no decision of the spec,
for every two-operand instruction that admits all modes, every Rd and every field value. -/
def Obligations.OperandModes : Prop :=
  ∀ (row : Nat) (mk : Reg → EA → Instr), twoOperand row = some mk →
    ∀ (rd rx : Nibble) (w2 : Word) (s : State), (mk (.ofNum rd) (.imm4 rx)).wellFormed = true →
      (decodeWords (packWord (BitVec.ofNat 8 (8 * row)) rd 0#4) w2 = .ok (mk (.ofNum rd) (.mem (.drct w2))) ∧
        effAddr s (.drct w2) = .ok w2 ∧ operand s (.mem (.drct w2)) = readWord s .read w2) ∧
      (decodeWords (packWord (BitVec.ofNat 8 (8 * row + 2)) rd 0#4) w2 = .ok (mk (.ofNum rd) (.imm w2)) ∧
        operand s (.imm w2) = .ok w2) ∧
      (decodeWords (packWord (BitVec.ofNat 8 (8 * row + 3)) rd rx) w2 = .ok (mk (.ofNum rd) (.mem (.fp rx))) ∧
        effAddr s (.fp rx) = .ok (BitVec.ofInt 16 (s.gr[12].toNat + 2 * rx.toInt)) ∧
        operand s (.mem (.fp rx)) = readWord s .read (BitVec.ofInt 16 (s.gr[12].toNat + 2 * rx.toInt))) ∧
      (rx ≠ 15#4 → decodeWords (packWord (BitVec.ofNat 8 (8 * row + 4)) rd rx) w2 = .ok (mk (.ofNum rd) (.reg (.ofNum rx))) ∧
        operand s (.reg (.ofNum rx)) = readReg s (.ofNum rx)) ∧
      (decodeWords (packWord (BitVec.ofNat 8 (8 * row + 5)) rd rx) w2 = .ok (mk (.ofNum rd) (.imm4 rx)) ∧
        operand s (.imm4 rx) = .ok (if rx.toNat < 8 then BitVec.ofNat 16 rx.toNat else BitVec.ofNat 16 (0xFFF0 + rx.toNat))) ∧
      (rx ≠ 15#4 → decodeWords (packWord (BitVec.ofNat 8 (8 * row + 6)) rd rx) w2 = .ok (mk (.ofNum rd) (.mem (.indr (.ofNum rx)))) ∧
        ∀ a, readReg s (.ofNum rx) = .ok a →
          effAddr s (.indr (.ofNum rx)) = .ok a ∧ operand s (.mem (.indr (.ofNum rx))) = readWord s .read a)

/-- 30_encoding.md R86 and R92, 44_jump_call.md R160 (a): Indexed, whose sum wraps (decision D5, log 26), Byte Register Indirect,
whose byte is zero-extended (decision D6, log 28), and the targets of jumps, which read no memory. -/
def Obligations.IndexedByteAndJumpModes : Prop :=
  ∀ (s : State) (dsp x : Word) (rx : Reg), readReg s rx = .ok x →
    effAddr s (.idx dsp rx) = .ok (BitVec.ofNat 16 (dsp.toNat + x.toNat)) ∧
      operand s (.mem (.idx dsp rx)) = readWord s .read (BitVec.ofNat 16 (dsp.toNat + x.toNat)) ∧
      effAddr s (.bindr rx) = .ok x ∧
      (∀ b : Byte, readByte s .read x = .ok b → ∃ v : Word, operand s (.mem (.bindr rx)) = .ok v ∧ v.toNat = b.toNat) ∧
      jumpTarget s (.drct dsp) = .ok dsp ∧ jumpTarget s (.idx dsp rx) = .ok (BitVec.ofNat 16 (dsp.toNat + x.toNat)) ∧
      jumpTarget s (.indr rx) = .ok x ∧ ∀ (m : Memory) (ea : JumpEA), jumpTarget (s.setMem m) ea = jumpTarget s ea

/-! ### Registers, FLAG and memory -/

/-- 10_state.md R20 to R24: the register numbers 0h to Dh. 0h to Ch are G0 to G12, each of which takes and gives back any value; FP
is G12; Dh is SP, and SP, as an instruction names it and as the stack instructions use it, is SSP with P = 1 and USP with P = 0. -/
def Obligations.RegisterNumbers : Prop :=
  Reg.fp = .ofNum 12#4 ∧
    ∀ (s : State) (v : Word),
      (∀ (k : Nibble) (n : Fin 13), k.toNat = n.val → Reg.ofNum k = .g n ∧ readReg s (.ofNum k) = .ok s.gr[n] ∧
        ∃ t, writeReg s (.ofNum k) v = .ok t ∧ readReg t (.ofNum k) = .ok v ∧ RegsAfterWrite (.g n) v s t) ∧
      (s.flag.p = true → readReg s (.ofNum 13#4) = .ok s.ssp ∧ s.sp = s.ssp ∧
        writeReg s (.ofNum 13#4) v = .ok { s with ssp := v } ∧ s.setSp v = { s with ssp := v }) ∧
      (s.flag.p = false → readReg s (.ofNum 13#4) = .ok s.usp ∧ s.sp = s.usp ∧
        writeReg s (.ofNum 13#4) v = .ok { s with usp := v } ∧ s.setSp v = { s with usp := v })

/-- 10_state.md R28: the layout of FLAG, as the 16-bit value it reads as. -/
def Obligations.FlagLayout : Prop :=
  ∀ (f : Flags) (k : Nat), f.toWord.getLsbD k =
    if k = 7 then f.e else if k = 6 then f.p else if k = 5 then f.i else if k = 3 then f.v else if k = 2 then f.c
    else if k = 1 then f.s else if k = 0 then f.z else false

/-- 20_memory.md R51 to R55, R60 to R63: a word just written is read back by every kind of access that is allowed, its high byte at
the even address, and every other byte is as before (big-endian is decision D2, log 18). In the display region the even byte holds
nothing: a write to it has no effect, and a word read ends in the VRAM byte (decision D33, log 17). -/
def Obligations.ReadAfterWrite : Prop :=
  ∀ (s : State) (a : Word),
    (∀ (k j : AccessKind) (v : Word), WordWritable s k a →
      ∃ t, writeWord s k a v = .ok t ∧ WordStored a v t ∧ MemKeptButWord a s t ∧ RegsKept s t ∧ RestKept s t ∧
        (regionOf a.toNat ≠ .attrib → WordAllowed t j a → readWord t j a = .ok v)) ∧
    (regionOf a.toNat = .attrib → (∀ v, s.storeByte a v = s) ∧
      ∀ (k : AccessKind) (lo : Byte), WordAllowed s k a → byteAt s k (a + 1#16) = .ok lo →
        ∃ w, readWord s k a = .ok w ∧ w.extractLsb' 0 8 = lo)

/-! ### The step -/

/-- 30_encoding.md R80 (the cycle is decision D9, log 35): when the words at PC hold the instruction i, the step runs i; then the
pending bits become a free value of the step index, which is how the model reads 60_exceptions.md R207 (decision D41; the model's
choice, log 13), and the model's step index advances (log 10). -/
def Obligations.StepRunsDecodedInstruction : Prop :=
  ∀ (s : State) (i : Instr), AboutToFetch s → HoldsInstr s i →
    (∀ t, exec i s = .next t → step s = .next { t with irq := Config.irqRequests t.tick, tick := t.tick + 1 }) ∧
      (∀ f, exec i s = .fault f → step s = .fault f) ∧ (∀ r, exec i s = .refused r → step s = .refused r)

/-- 30_encoding.md R80 to R100: where the bytes from PC on are those of an instruction the spec gives a meaning, and PC is even and
may be fetched from, the step runs that instruction. That the byte at PC is OP is the byte order (20_memory.md R51: decision D2, log
18), and the cycle is decision D9 (log 35); `settle` is the devices' move and the step index (D41; the model's choice, logs 10 and
13). -/
def Obligations.StepRunsEncodedInstruction : Prop :=
  ∀ (s : State) (i : Instr), AboutToFetch s → i.wellFormed = true → isOdd s.pc = false →
    (∀ k : Nat, k < i.byteLen →
      denied s .fetch (s.pc + BitVec.ofNat 16 k) = false ∧
        ∃ b, (encodeBytes i)[k]? = some b ∧ byteAt s .fetch (s.pc + BitVec.ofNat 16 k) = .ok b) →
    step s = settle (exec i s)

/-- 60_exceptions.md R206 and R209: no interrupt while E = 0; with E = 1 a pending source is taken before the fetch, through its own
vector and with the PC of the instruction not yet executed (decisions D23 and D28, log 13). -/
def Obligations.InterruptCheck : Prop :=
  ∀ s : State, s.halted = false →
    (s.flag.e = false → pendingInterrupt s = none) ∧ (s.irq = 0#10 → pendingInterrupt s = none) ∧
      (∀ n : Fin 10, pendingInterrupt s = some n → s.flag.e = true ∧ s.irq.getLsbD n.val = true) ∧
      (s.flag.e = true → s.irq ≠ 0#10 → ∃ n : Fin 10, s.irq.getLsbD n.val = true ∧
        step s = settle (trapEntry ⟨n.val, by omega⟩ s.pc s))

/-- 30_encoding.md R97 and 60_exceptions.md R205: an OP of the 93 blank cells traps through vector 14, and no other OP does
(decision D20, log 24). The PC it saves is the parameter FAULT_PC of the exception and the instruction's address, with no npc
(R212: decision D24; the model's choice, log 9). -/
def Obligations.BlankOpcodesTrap : Prop :=
  (∀ op : BitVec 8, opCell (opRow op) (opCol op) = none ↔ isBlankOp op.toNat = true) ∧
    (∀ w1 w2 : Word, decodeWords w1 w2 = .error .undefinedOp ↔ isBlankOp (opField w1).toNat = true) ∧
    ∀ (s : State) (w1 : Word), AboutToFetch s → readWord s .fetch s.pc = .ok w1 → isBlankOp (opField w1).toNat = true →
      step s = settle (trapEntry 14 (Config.faultPc .undefinedInstruction s.pc none) s)

/-- 60_exceptions.md R208 (5): words whose OP is defined and which the spec refuses are refused by name: a field shown as 0h that is
not zero and jump condition Dh (D19), register number Fh in Rd, Rs or Rx, which no read or write of a register accepts either (D18),
MULL or DIVL with an odd Rd, Ch or Eh (D15); log 23. -/
def Obligations.MeaninglessWordsRefused : Prop :=
  (∀ (s : State) (w1 w2 : Word) (e : WordError), AboutToFetch s → readWord s .fetch s.pc = .ok w1 →
      (needsSecondWord w1 = some true → readWord s .fetch (s.pc + 2#16) = .ok w2) →
      decodeWords w1 w2 = .error e → e ≠ .undefinedOp →
      step s = .refused (match e with
        | .undefinedOp => .nonZeroField
        | .nonZeroField => .nonZeroField
        | .jumpConditionD => .jumpConditionD
        | .pcOperand => .pcOperand
        | .badRegisterPair => .badRegisterPair)) ∧
    (∀ (op : BitVec 8) (rd rx : Nibble) (w2 : Word), opCell (opRow op) (opCol op) = some .noOperand → (rd ≠ 0#4 ∨ rx ≠ 0#4) →
      decodeWords (packWord op rd rx) w2 = .error .nonZeroField) ∧
    (∀ (op : BitVec 8) (f : Format) (rd rx : Nibble) (w2 : Word), opCell (opRow op) (opCol op) = some f →
      (f = .drct ∨ f = .imm ∨ f = .oneReg) → rx ≠ 0#4 → (opRow op = 20 → rd ≠ 13#4) →
      decodeWords (packWord op rd rx) w2 = .error .nonZeroField) ∧
    (∀ (rd rx : Nibble) (w2 : Word) (op : BitVec 8), (op = 0xA8#8 ∨ op = 0xA9#8 ∨ op = 0xAE#8) → rd ≠ 0#4 →
      decodeWords (packWord op rd rx) w2 = .error .nonZeroField) ∧
    (∀ (rx : Nibble) (w2 : Word) (op : BitVec 8), (op = 0xA0#8 ∨ op = 0xA1#8 ∨ op = 0xA6#8) →
      decodeWords (packWord op 13#4 rx) w2 = .error .jumpConditionD) ∧
    (∀ (w1 w2 : Word) (f : Format) (i : Instr), opCell (opRow (opField w1)) (opCol (opField w1)) = some f →
      decodeCell (opRow (opField w1)) (opCol (opField w1)) f (rdField w1) (rxField w1) w2 = .ok i →
      (i.usesPc = true → decodeWords w1 w2 = .error .pcOperand) ∧
        (i.usesPc = false → i.badPair = true → decodeWords w1 w2 = .error .badRegisterPair)) ∧
    (∀ (op : BitVec 8) (f : Format) (rx : Nibble) (w2 : Word), opCell (opRow op) (opCol op) = some f →
      f ≠ .noOperand → opRow op ≠ 20 → opRow op ≠ 21 → (f = .drct ∨ f = .imm ∨ f = .oneReg → rx = 0#4) →
      decodeWords (packWord op 15#4 rx) w2 = .error .pcOperand) ∧
    (∀ (op : BitVec 8) (f : Format) (rd : Nibble) (w2 : Word), opCell (opRow op) (opCol op) = some f →
      (f = .idx ∨ f = .reg ∨ f = .indr ∨ f = .bindr) → (opRow op = 20 → rd ≠ 13#4) → (opRow op = 21 → rd = 0#4) →
      decodeWords (packWord op rd 15#4) w2 = .error .pcOperand) ∧
    (∀ (op : BitVec 8) (f : Format) (rd rx : Nibble) (w2 : Word), (opRow op = 13 ∨ opRow op = 14) →
      opCell (opRow op) (opCol op) = some f → (f = .drct ∨ f = .imm → rx = 0#4) →
      (f = .idx ∨ f = .reg ∨ f = .indr ∨ f = .bindr → rx ≠ 15#4) → rd ≠ 15#4 →
      (rd.toNat % 2 = 1 ∨ rd = 12#4 ∨ rd = 14#4) →
      decodeWords (packWord op rd rx) w2 = .error .badRegisterPair) ∧
    (∀ (rd : Reg) (ea : EA) (s : State), (∀ n : Fin 13, n.val % 2 = 0 → n.val ≤ 10 → rd ≠ .g n) →
      exec (.mull rd ea) s = .refused .badRegisterPair ∧ exec (.divl rd ea) s = .refused .badRegisterPair) ∧
    ∀ (s : State) (v : Word), readReg s (.ofNum 15#4) = .refused .pcOperand ∧ writeReg s (.ofNum 15#4) v = .refused .pcOperand

/-! ### Traps -/

/-- 60_exceptions.md R211 and R214: what trap entry does when its accesses can be made, and that it is a fault when they cannot
(decisions D23, D26 and D43, logs 21 and 38). -/
def Obligations.TrapEntryEffect : Prop :=
  ∀ (n : Fin 16) (spc : Word) (s : State),
    (TrapReady n spc s → ∃ t, trapEntry n spc s = .next t ∧ TrapEffect n spc s t) ∧
      (¬ TrapReady n spc s → trapEntry n spc s = .fault .trapEntry)

/-- 60_exceptions.md R211 and R215, 46_stack_return.md R189: RETI directly after a trap entry gives back FLAG, the stack pointers
and every general register, goes to the saved PC and leaves memory as the entry left it, when the frame does not lie in the display
region, whose even bytes hold nothing (decisions D23 and D25, logs 21 and 22). -/
def Obligations.RetiUndoesTrapEntry : Prop :=
  ∀ (n : Fin 16) (spc : Word) (s t : State), trapEntry n spc s = .next t →
    regionOf (s.ssp - 2#16).toNat ≠ .attrib → regionOf (s.ssp - 4#16).toNat ≠ .attrib →
    ∃ u, exec .reti t = .next u ∧ RegsKept s u ∧ u.flag = s.flag ∧ u.pc = spc ∧ MemKept t u ∧ RestKept s u

/-- 60_exceptions.md R204: DIV, MOD and DIVL with a divisor 0000h raise ZeroDivide, vector 12, word at FFF8h, in every mode and
whatever E is. The PC saved is the parameter FAULT_PC (R212: decision D24; the model's choice, log 9); the entry (R211: decision
D23, log 21) is made from the state as it was before the instruction, so neither Rd nor Rd+1 nor any flag has been written (decision
D39, log 36). -/
def Obligations.ZeroDivideRaised : Prop :=
  vectorAddr 12 = 0xFFF8#16 ∧ ∀ (rd : Reg) (ea : EA) (s : State), operand s ea = .ok 0#16 →
    (rd ≠ .pc →
      exec (.div rd ea) s = trapEntry 12 (Config.faultPc .zeroDivide s.pc (some (nextPc (.div rd ea) s))) s ∧
        exec (.mod rd ea) s = trapEntry 12 (Config.faultPc .zeroDivide s.pc (some (nextPc (.mod rd ea) s))) s) ∧
    (rd.isPairLow = true →
      exec (.divl rd ea) s = trapEntry 12 (Config.faultPc .zeroDivide s.pc (some (nextPc (.divl rd ea) s))) s)

/-- 60_exceptions.md R210, R216, R217: the privilege check turns away exactly the members of PRIV_SET executed with P = 0, but for
IN and OUT when I = 1 (decision D22, log 33); an instruction it turns away raises PrivilegeViolation, vector 13, word at FFFAh, and
does nothing else. PRIV_SET is an argument of the model; the recommended one is IN, OUT, EI, DI and HALT (decision D21, log 6), and
no PRIV_SET makes privileged what the spec says is not: the arithmetic, logic, multiply, divide and shift instructions, the jumps,
CALL (41_arith_logic.md R131, 42_mul_div.md R140, 43_shift.md R150, 44_jump_call.md R160, R176) and SVC (47_system.md R195: D21).
The PC saved is the parameter FAULT_PC (R212: decision D24; the model's choice, log 9). -/
def Obligations.PrivilegeViolationRaised : Prop :=
  vectorAddr 13 = 0xFFFA#16 ∧
    (∀ (i : Instr) (s : State), privAllowed i s = false ↔ inPrivSet s.params i = true ∧ s.flag.p = false ∧
      ¬ ((∃ rd ea, i = .inp rd ea ∨ i = .outp rd ea) ∧ s.flag.i = true)) ∧
    (∀ (i : Instr) (s : State), privAllowed i s = false →
      exec i s = trapEntry 13 (Config.faultPc .privilegeViolation s.pc (some (nextPc i s))) s) ∧
    (∀ i : Instr, inPrivSet Params.recommended i = true ↔
      (∃ rd ea, i = .inp rd ea ∨ i = .outp rd ea) ∨ i = .ei ∨ i = .di ∨ i = .halt) ∧
    ∀ (p : Params) (rd : Reg) (ea : EA) (j : JumpEA) (i : Instr),
      i ∈ [.add rd ea, .sub rd ea, .cmp rd ea, .and rd ea, .or rd ea, .xor rd ea, .adds rd ea, .mul rd ea, .div rd ea, .mod rd ea,
        .mull rd ea, .divl rd ea, .shla rd ea, .shll rd ea, .shra rd ea, .shrl rd ea, .jz j, .jc j, .jm j, .jo j, .jgt j, .jge j,
        .jle j, .jlt j, .jnz j, .jnc j, .jnm j, .jno j, .jhi j, .jls j, .jmp j, .call j, .svc] → inPrivSet p i = false

/-- 60_exceptions.md R203 and 20_memory.md R69: an access of which MEM_PROTECT denies a byte raises LimitViolation, vector 11, word
at FFF6h, and does nothing else: the fetch of either word, the operand of ST and of every two-operand instruction, the stack of
PUSH, POP, CALL, RET and RETI. MEM_PROTECT is an argument of the model; the recommended one denies exactly the addresses outside the
inclusive limits, in user mode only, for every kind of access (decision D35, log 7). The PC saved is the parameter
FAULT_PC (R212: decision D24; the model's choice, log 9); the order of the checks is decision D38, log 30. -/
def Obligations.LimitViolationRaised : Prop :=
  (∀ (s : State) (k : AccessKind) (a : Word), s.params.memProtect = .recommended →
      (denied s k a = true ↔ s.flag.p = false ∧ (a.toNat < s.lowerLimit.toNat ∨ s.upperLimit.toNat < a.toNat))) ∧
  vectorAddr 11 = 0xFFF6#16 ∧ ∀ (s : State) (a b : Word),
    (isOdd a = false → (b = a ∨ b = a + 1#16) →
      (denied s .fetch b = true → AboutToFetch s → s.pc = a →
        step s = settle (trapEntry 11 (Config.faultPc .limitViolation s.pc none) s)) ∧
      (∀ w1 : Word, denied s .fetch b = true → AboutToFetch s → readWord s .fetch s.pc = .ok w1 →
        needsSecondWord w1 = some true → s.pc + 2#16 = a →
        step s = settle (trapEntry 11 (Config.faultPc .limitViolation s.pc (some (s.pc + 4#16))) s)) ∧
      (∀ (row : Nat) (mk : Reg → EA → Instr) (rd : Reg) (m : MemEA), denied s .read b = true → twoOperand row = some mk →
        (mk rd (.mem m)).wellFormed = true → privAllowed (mk rd (.mem m)) s = true → MemEA.isByte m = false →
        effAddr s m = .ok a →
        exec (mk rd (.mem m)) s =
          trapEntry 11 (Config.faultPc .limitViolation s.pc (some (nextPc (mk rd (.mem m)) s))) s) ∧
      (∀ (rd : Reg) (m : MemEA), denied s .write b = true → rd ≠ .pc → privAllowed (.st rd m) s = true →
        MemEA.isByte m = false → effAddr s m = .ok a →
        exec (.st rd m) s = trapEntry 11 (Config.faultPc .limitViolation s.pc (some (nextPc (.st rd m) s))) s) ∧
      (denied s .stack b = true →
        (∀ rd : Reg, privAllowed (.pop rd) s = true → s.sp = a →
          exec (.pop rd) s = trapEntry 11 (Config.faultPc .limitViolation s.pc (some (s.pc + 2#16))) s) ∧
        (∀ rd : Reg, rd ≠ .pc → privAllowed (.push rd) s = true → s.sp - 2#16 = a →
          exec (.push rd) s = trapEntry 11 (Config.faultPc .limitViolation s.pc (some (s.pc + 2#16))) s) ∧
        (∀ ea : JumpEA, ea.usesPc = false → s.sp - 2#16 = a →
          exec (.call ea) s = trapEntry 11 (Config.faultPc .limitViolation s.pc (some (nextPc (.call ea) s))) s) ∧
        (privAllowed .ret s = true → s.sp = a →
          exec .ret s = trapEntry 11 (Config.faultPc .limitViolation s.pc (some (s.pc + 2#16))) s) ∧
        (privAllowed .reti s = true → s.sp = a ∨ (s.sp + 2#16 = a ∧ ∃ f, readWord s .stack s.sp = .ok f) →
          exec .reti s = trapEntry 11 (Config.faultPc .limitViolation s.pc (some (s.pc + 2#16))) s))) ∧
    (∀ (row : Nat) (mk : Reg → EA → Instr) (rd rx : Reg), denied s .read b = true → twoOperand row = some mk →
      (mk rd (.mem (.bindr rx))).wellFormed = true → privAllowed (mk rd (.mem (.bindr rx))) s = true → readReg s rx = .ok b →
      exec (mk rd (.mem (.bindr rx))) s = trapEntry 11 (Config.faultPc .limitViolation s.pc (some (s.pc + 2#16))) s) ∧
    (∀ rd rx : Reg, denied s .write b = true → rd ≠ .pc → privAllowed (.st rd (.bindr rx)) s = true → readReg s rx = .ok b →
      exec (.st rd (.bindr rx)) s = trapEntry 11 (Config.faultPc .limitViolation s.pc (some (s.pc + 2#16))) s)

/-- 20_memory.md R56, 46_stack_return.md R185 (c): a 2-byte access at an odd address is a fault, for the fetch at an odd PC, the
operand of ST and of every two-operand instruction, a push, a call, a pop and a return, where the privilege check lets the
instruction run, which it always does for the two-operand instructions but LD and for CALL (decision D4, log 19); a byte access is
never misaligned. -/
def Obligations.MisalignedWordFaults : Prop :=
  ∀ (s : State) (a : Word), isOdd a = true →
    (AboutToFetch s → s.pc = a → step s = .fault .misaligned) ∧
    (∀ (rd : Reg) (m : MemEA), rd ≠ .pc → privAllowed (.st rd m) s = true → MemEA.isByte m = false → effAddr s m = .ok a →
      exec (.st rd m) s = .fault .misaligned) ∧
    (∀ (row : Nat) (mk : Reg → EA → Instr) (rd : Reg) (m : MemEA), twoOperand row = some mk →
      (mk rd (.mem m)).wellFormed = true → privAllowed (mk rd (.mem m)) s = true → MemEA.isByte m = false →
      effAddr s m = .ok a → exec (mk rd (.mem m)) s = .fault .misaligned) ∧
    (s.sp = a →
      (∀ rd : Reg, privAllowed (.pop rd) s = true → exec (.pop rd) s = .fault .misaligned) ∧
      (privAllowed .ret s = true → exec .ret s = .fault .misaligned) ∧
      (privAllowed .reti s = true → exec .reti s = .fault .misaligned) ∧
      (∀ rd : Reg, rd ≠ .pc → privAllowed (.push rd) s = true → exec (.push rd) s = .fault .misaligned) ∧
      ∀ ea : JumpEA, ea.usesPc = false → exec (.call ea) s = .fault .misaligned) ∧
    ∀ k, readByte s k a ≠ .fault .misaligned

/-- 20_memory.md R62: a write that is allowed and reaches F000h..FFDFh is refused, by a store of either width and by the push of
PUSH and CALL (46_stack_return.md R185 (c); decision D33, log 34). Premise for ST and PUSH: the privilege check lets the instruction
run (60_exceptions.md R216). -/
def Obligations.RomWritesRefused : Prop :=
  ∀ (s : State) (a : Word), 0xF000 ≤ a.toNat → a.toNat ≤ 0xFFDF →
    (∀ (rd : Reg) (m : MemEA), rd ≠ .pc → privAllowed (.st rd m) s = true → effAddr s m = .ok a →
      (MemEA.isByte m = true → denied s .write a = false → exec (.st rd m) s = .refused .romWrite) ∧
        (WordAllowed s .write a → exec (.st rd m) s = .refused .romWrite)) ∧
    (∀ rd : Reg, rd ≠ .pc → privAllowed (.push rd) s = true → s.sp - 2#16 = a → WordAllowed s .stack a →
      exec (.push rd) s = .refused .romWrite) ∧
    (∀ ea : JumpEA, ea.usesPc = false → s.sp - 2#16 = a → WordAllowed s .stack a →
      exec (.call ea) s = .refused .romWrite)

/-! ### NO, LD, LD Rd,FLAG, ST -/

/-- 40_no_load_store.md R121: NO changes nothing but PC, which advances by 2, in every state in which the privilege check lets it
run (60_exceptions.md R216). -/
def Obligations.NoOnlyAdvances : Prop :=
  ∀ s : State, privAllowed .no s = true → exec .no s = .next { s with pc := s.pc + 2#16 }

/-- 40_no_load_store.md R122: LD puts the operand in Rd, whatever register that is, and changes nothing else but PC. Premise: the
privilege check lets the instruction run (60_exceptions.md R216). -/
def Obligations.LdEffect : Prop :=
  ∀ (rd : Reg) (ea : EA) (s : State) (b : Word), privAllowed (.ld rd ea) s = true → rd ≠ .pc → operand s ea = .ok b →
    ∃ t, exec (.ld rd ea) s = .next t ∧ RegsAfterWrite rd b s t ∧ t.flag = s.flag ∧ t.pc = nextPc (.ld rd ea) s ∧
      MemKept s t ∧ RestKept s t

/-- 40_no_load_store.md R123: LD Rd,FLAG puts the FLAG word in Rd, in every state and mode in which it may run, and changes nothing
else but PC. Premise: the privilege check lets the instruction run (60_exceptions.md R216). -/
def Obligations.LdFlagEffect : Prop :=
  ∀ (rd : Reg) (s : State), privAllowed (.ldFlag rd) s = true → rd ≠ .pc →
    ∃ t, exec (.ldFlag rd) s = .next t ∧ RegsAfterWrite rd s.flag.toWord s t ∧ t.flag = s.flag ∧ t.pc = s.pc + 2#16 ∧
      MemKept s t ∧ RestKept s t

/-- 40_no_load_store.md R124: ST stores Rd at the effective address, in Byte Register Indirect mode its bits 7:0 in the one byte
there, of any parity; no other byte, no register and no flag changes (decision D7, log 35). Premise: the privilege check lets the
instruction run (60_exceptions.md R216). -/
def Obligations.StEffect : Prop :=
  ∀ (rd : Reg) (m : MemEA) (s : State) (v a : Word), privAllowed (.st rd m) s = true → readReg s rd = .ok v → effAddr s m = .ok a →
    (MemEA.isByte m = false → WordWritable s .write a →
      ∃ t, exec (.st rd m) s = .next t ∧ WordStored a v t ∧ MemKeptButWord a s t ∧ RegsKept s t ∧ t.flag = s.flag ∧
        t.pc = nextPc (.st rd m) s ∧ RestKept s t) ∧
    (MemEA.isByte m = true → denied s .write a = false → regionOf a.toNat ≠ .rom →
      ∃ t, exec (.st rd m) s = .next t ∧
        (regionOf a.toNat ≠ .attrib → ∀ k, byteAt t k a = .ok (v.extractLsb' 0 8)) ∧
        MemKeptButByte a s t ∧ RegsKept s t ∧ t.flag = s.flag ∧ t.pc = s.pc + 2#16 ∧ RestKept s t)

/-! ### Arithmetic, logic, multiply, divide, shift -/

/-- 41_arith_logic.md R132: ADD: sum modulo 65536, C the carry out of bit 15, V the signed overflow, Z and S of the result (the
flags are decisions D10 and D11, log 27). -/
def Obligations.AddEffect : Prop :=
  ∀ (rd : Reg) (ea : EA) (s : State) (a b : Word), readReg s rd = .ok a → operand s ea = .ok b →
    ∃ t, exec (.add rd ea) s = .next t ∧ RegsAfterWrite rd (BitVec.ofNat 16 (a.toNat + b.toNat)) s t ∧
      ResultFlags (BitVec.ofNat 16 (a.toNat + b.toNat)) s t ∧
      t.flag.c = decide (65536 ≤ a.toNat + b.toNat) ∧
      t.flag.v = decide (a.toInt + b.toInt < -32768 ∨ 32767 < a.toInt + b.toInt) ∧
      t.pc = nextPc (.add rd ea) s ∧ MemKept s t ∧ RestKept s t

/-- 41_arith_logic.md R133 and 10_state.md R33: SUB: difference modulo 65536, C the borrow, V the signed overflow, Z and S of the
result (decisions D10 and D11, log 27). -/
def Obligations.SubEffect : Prop :=
  ∀ (rd : Reg) (ea : EA) (s : State) (a b : Word), readReg s rd = .ok a → operand s ea = .ok b →
    ∃ t, exec (.sub rd ea) s = .next t ∧ RegsAfterWrite rd (BitVec.ofInt 16 ((a.toNat : Int) - b.toNat)) s t ∧
      ResultFlags (BitVec.ofInt 16 ((a.toNat : Int) - b.toNat)) s t ∧
      t.flag.c = decide (a.toNat < b.toNat) ∧
      t.flag.v = decide (a.toInt - b.toInt < -32768 ∨ 32767 < a.toInt - b.toInt) ∧
      t.pc = nextPc (.sub rd ea) s ∧ MemKept s t ∧ RestKept s t

/-- 41_arith_logic.md R134: CMP sets the flags of the subtraction and writes no register (decision D11, log 27). -/
def Obligations.CmpEffect : Prop :=
  ∀ (rd : Reg) (ea : EA) (s : State) (a b : Word), readReg s rd = .ok a → operand s ea = .ok b →
    ∃ t, exec (.cmp rd ea) s = .next t ∧ RegsKept s t ∧
      t.flag.z = decide (a = b) ∧ t.flag.s = (BitVec.ofInt 16 ((a.toNat : Int) - b.toNat)).getLsbD 15 ∧
      t.flag.c = decide (a.toNat < b.toNat) ∧
      t.flag.v = decide (a.toInt - b.toInt < -32768 ∨ 32767 < a.toInt - b.toInt) ∧
      SystemFlagsKept s t ∧ t.pc = nextPc (.cmp rd ea) s ∧ MemKept s t ∧ RestKept s t

/-- 10_state.md R33 and 41_arith_logic.md R134: after CMP the ten jumps of the comparison table select by the relation of the signed
or unsigned operands: each, in the state CMP leaves, goes to its target exactly when its relation holds. -/
def Obligations.ComparisonTable : Prop :=
  ∀ (rd : Reg) (ea : EA) (s t : State) (a b target : Word) (j : JumpEA),
    readReg s rd = .ok a → operand s ea = .ok b → exec (.cmp rd ea) s = .next t → jumpTarget t j = .ok target →
      GoesTo (.jgt j) t (if b.toInt < a.toInt then target else nextPc (.jgt j) t) ∧
      GoesTo (.jge j) t (if b.toInt ≤ a.toInt then target else nextPc (.jge j) t) ∧
      GoesTo (.jle j) t (if a.toInt ≤ b.toInt then target else nextPc (.jle j) t) ∧
      GoesTo (.jlt j) t (if a.toInt < b.toInt then target else nextPc (.jlt j) t) ∧
      GoesTo (.jhi j) t (if b.toNat < a.toNat then target else nextPc (.jhi j) t) ∧
      GoesTo (.jnc j) t (if b.toNat ≤ a.toNat then target else nextPc (.jnc j) t) ∧
      GoesTo (.jls j) t (if a.toNat ≤ b.toNat then target else nextPc (.jls j) t) ∧
      GoesTo (.jc j) t (if a.toNat < b.toNat then target else nextPc (.jc j) t) ∧
      GoesTo (.jz j) t (if a = b then target else nextPc (.jz j) t) ∧
      GoesTo (.jnz j) t (if a ≠ b then target else nextPc (.jnz j) t)

/-- 41_arith_logic.md R135 to R138 and 42_mul_div.md R141: AND, OR, XOR, ADDS and MUL: the result in Rd, Z and S of it, nothing else
but PC changed; C and V are free (decisions D11 and D12, log 27 and log 10). -/
def Obligations.LogicAndMulEffect : Prop :=
  ∀ (rd : Reg) (ea : EA) (s : State) (a b : Word), readReg s rd = .ok a → operand s ea = .ok b →
    SingleResult (.and rd ea) rd (a &&& b) s ∧ SingleResult (.or rd ea) rd (a ||| b) s ∧
      SingleResult (.xor rd ea) rd (a ^^^ b) s ∧
      SingleResult (.adds rd ea) rd (BitVec.ofNat 16 (a.toNat + 2 * b.toNat)) s ∧
      SingleResult (.mul rd ea) rd (BitVec.ofNat 16 (a.toNat * b.toNat)) s

/-- 42_mul_div.md R142 and R143: DIV and MOD by a divisor that is not zero complete with a function of the two operands, which on
operands below 8000h is the quotient and the remainder (decision D13, log 11; flags D11 and D12, log 27). -/
def Obligations.DivModEffect : Prop :=
  ∃ quot rem : Word → Word → Word,
    (∀ a b : Word, a.toNat < 0x8000 → b.toNat < 0x8000 → b ≠ 0#16 →
      (quot a b).toNat = a.toNat / b.toNat ∧ (rem a b).toNat = a.toNat % b.toNat) ∧
    ∀ (rd : Reg) (ea : EA) (s : State) (a b : Word), readReg s rd = .ok a → operand s ea = .ok b → b ≠ 0#16 →
      SingleResult (.div rd ea) rd (quot a b) s ∧ SingleResult (.mod rd ea) rd (rem a b) s

/-- 42_mul_div.md R144 and R145: MULL writes the low word of the product to Rd and a function of the operands to Rd+1, which on
operands below 8000h is the high word; all four condition flags are free (decisions D12, D13, D14, logs 10, 11 and 37). -/
def Obligations.MullEffect : Prop :=
  ∃ highFn : Word → Word → Word,
    (∀ a b : Word, a.toNat < 0x8000 → b.toNat < 0x8000 → (highFn a b).toNat = a.toNat * b.toNat / 65536) ∧
    ∀ (lo hi : Fin 13) (ea : EA) (s : State) (b : Word), lo.val % 2 = 0 → lo.val ≤ 10 → hi.val = lo.val + 1 →
      operand s ea = .ok b →
      ∃ t, exec (.mull (.g lo) ea) s = .next t ∧
        PairAfterWrite lo hi (BitVec.ofNat 16 (s.gr[lo].toNat * b.toNat)) (highFn s.gr[lo] b) s t ∧
        SystemFlagsKept s t ∧ t.pc = nextPc (.mull (.g lo) ea) s ∧ MemKept s t ∧ RestKept s t

/-- 42_mul_div.md R144 and R146: DIVL by a divisor that is not zero writes a quotient to Rd and a remainder to Rd+1, functions of
the pair as it stood and the divisor, fixed where the quotient is at most 7FFFh; all four condition flags are free (decisions D12,
D14, D40, logs 10, 11 and 37). -/
def Obligations.DivlEffect : Prop :=
  ∃ quot rem : BitVec 32 → Word → Word,
    (∀ (d : BitVec 32) (b : Word), d.toNat < 0x80000000 → b.toNat < 0x8000 → b ≠ 0#16 → d.toNat / b.toNat ≤ 0x7FFF →
      (quot d b).toNat = d.toNat / b.toNat ∧ (rem d b).toNat = d.toNat % b.toNat) ∧
    ∀ (lo hi : Fin 13) (ea : EA) (s : State) (b : Word), lo.val % 2 = 0 → lo.val ≤ 10 → hi.val = lo.val + 1 →
      operand s ea = .ok b → b ≠ 0#16 →
      ∃ t, exec (.divl (.g lo) ea) s = .next t ∧
        PairAfterWrite lo hi (quot (s.gr[hi] ++ s.gr[lo]) b) (rem (s.gr[hi] ++ s.gr[lo]) b) s t ∧
        SystemFlagsKept s t ∧ t.pc = nextPc (.divl (.g lo) ea) s ∧ MemKept s t ∧ RestKept s t

/-- 42_mul_div.md R146, corner cases: DIVL undoes MULL: with both operands below 8000h and the second not zero, MULL and then DIVL
with the same operand give Rd back and leave 0000h in Rd+1 (decisions D13, D14 and D40, logs 11 and 37). -/
def Obligations.DivlUndoesMull : Prop :=
  ∀ (lo hi : Fin 13) (ea ea' : EA) (s t : State) (b : Word), lo.val % 2 = 0 → lo.val ≤ 10 → hi.val = lo.val + 1 →
    s.gr[lo].toNat < 0x8000 → b.toNat < 0x8000 → b ≠ 0#16 → operand s ea = .ok b →
    exec (.mull (.g lo) ea) s = .next t → operand t ea' = .ok b →
    ∃ u, exec (.divl (.g lo) ea') t = .next u ∧ PairAfterWrite lo hi s.gr[lo] 0#16 s u

/-- 43_shift.md R150 to R155: a shift by n = 0 to 15 gives a * 2^n modulo 65536 for SHLA and SHLL, the floor of the signed a / 2^n
for SHRA and of the unsigned for SHRL; a longer shift completes too, with a function of the operands (decision D16, log 12); at
every count SHLA and SHLL have one and the same result; Z and S of the result (decisions D11 and D12, log 27). -/
def Obligations.ShiftEffect : Prop :=
  ∃ left rightArith rightLogical : Word → Word → Word,
    (∀ a b : Word, b.toNat ≤ 15 →
      left a b = BitVec.ofNat 16 (a.toNat * 2 ^ b.toNat) ∧ (rightArith a b).toInt = a.toInt / (2 ^ b.toNat : Nat) ∧
        (rightLogical a b).toNat = a.toNat / 2 ^ b.toNat) ∧
    ∀ (rd : Reg) (ea : EA) (s : State) (a b : Word), readReg s rd = .ok a → operand s ea = .ok b →
      SingleResult (.shla rd ea) rd (left a b) s ∧ SingleResult (.shll rd ea) rd (left a b) s ∧
        SingleResult (.shra rd ea) rd (rightArith a b) s ∧ SingleResult (.shrl rd ea) rd (rightLogical a b) s

/-! ### Jumps and CALL -/

/-- 44_jump_call.md R161 to R168: JZ, JC, JM, JO, JGT, JGE, JLE, JLT: the words with condition digit 0h to 7h are these jumps, each
goes to its target exactly when its condition of V, C, S, Z holds and to npc otherwise, and changes nothing else; none can stop. -/
def Obligations.ConditionalJumpsLow : Prop :=
  (∀ (c : Fin 8) (mk : JumpEA → Instr),
      [Instr.jz, Instr.jc, Instr.jm, Instr.jo, Instr.jgt, Instr.jge, Instr.jle, Instr.jlt][c.val]? = some mk →
      ∀ (d : Word) (rx : Nibble), rx ≠ 15#4 →
        decodeWords (packWord 0xA0#8 (BitVec.ofNat 4 c.val) 0#4) d = .ok (mk (.drct d)) ∧
          decodeWords (packWord 0xA1#8 (BitVec.ofNat 4 c.val) rx) d = .ok (mk (.idx d (.ofNum rx))) ∧
          decodeWords (packWord 0xA6#8 (BitVec.ofNat 4 c.val) rx) d = .ok (mk (.indr (.ofNum rx)))) ∧
    ∀ (s : State) (ea : JumpEA), ea.usesPc = false → ∃ target, jumpTarget s ea = .ok target ∧
      GoesTo (.jz ea) s (if s.flag.z = true then target else nextPc (.jz ea) s) ∧
      GoesTo (.jc ea) s (if s.flag.c = true then target else nextPc (.jc ea) s) ∧
      GoesTo (.jm ea) s (if s.flag.s = true then target else nextPc (.jm ea) s) ∧
      GoesTo (.jo ea) s (if s.flag.v = true then target else nextPc (.jo ea) s) ∧
      GoesTo (.jgt ea) s (if ¬ (s.flag.z = true ∨ s.flag.s ≠ s.flag.v) then target else nextPc (.jgt ea) s) ∧
      GoesTo (.jge ea) s (if ¬ (s.flag.s ≠ s.flag.v) then target else nextPc (.jge ea) s) ∧
      GoesTo (.jle ea) s (if s.flag.z = true ∨ s.flag.s ≠ s.flag.v then target else nextPc (.jle ea) s) ∧
      GoesTo (.jlt ea) s (if s.flag.s ≠ s.flag.v then target else nextPc (.jlt ea) s)

/-- 44_jump_call.md R169 to R175: JNZ, JNC, JNM, JNO, JHI, JLS and JMP: the words with condition digits 8h to Ch, Eh and Fh are
these jumps, each goes to its target exactly when its condition holds (JMP always) and to npc otherwise, and changes nothing else. -/
def Obligations.ConditionalJumpsHigh : Prop :=
  (∀ (c : Fin 16) (mk : JumpEA → Instr),
      [none, none, none, none, none, none, none, none, some Instr.jnz, some Instr.jnc, some Instr.jnm, some Instr.jno,
        some Instr.jhi, none, some Instr.jls, some Instr.jmp][c.val]? = some (some mk) →
      ∀ (d : Word) (rx : Nibble), rx ≠ 15#4 →
        decodeWords (packWord 0xA0#8 (BitVec.ofNat 4 c.val) 0#4) d = .ok (mk (.drct d)) ∧
          decodeWords (packWord 0xA1#8 (BitVec.ofNat 4 c.val) rx) d = .ok (mk (.idx d (.ofNum rx))) ∧
          decodeWords (packWord 0xA6#8 (BitVec.ofNat 4 c.val) rx) d = .ok (mk (.indr (.ofNum rx)))) ∧
    ∀ (s : State) (ea : JumpEA), ea.usesPc = false → ∃ target, jumpTarget s ea = .ok target ∧
      GoesTo (.jnz ea) s (if s.flag.z = false then target else nextPc (.jnz ea) s) ∧
      GoesTo (.jnc ea) s (if s.flag.c = false then target else nextPc (.jnc ea) s) ∧
      GoesTo (.jnm ea) s (if s.flag.s = false then target else nextPc (.jnm ea) s) ∧
      GoesTo (.jno ea) s (if s.flag.v = false then target else nextPc (.jno ea) s) ∧
      GoesTo (.jhi ea) s (if ¬ (s.flag.z = true ∨ s.flag.c = true) then target else nextPc (.jhi ea) s) ∧
      GoesTo (.jls ea) s (if s.flag.z = true ∨ s.flag.c = true then target else nextPc (.jls ea) s) ∧
      GoesTo (.jmp ea) s target

/-- 44_jump_call.md R176: CALL pushes npc on the stack P selects and goes to the target, taken from the registers as they stood
(decisions D8 and D9, log 20). -/
def Obligations.CallEffect : Prop :=
  ∀ (ea : JumpEA) (s : State) (target : Word), jumpTarget s ea = .ok target →
    WordWritable s .stack (s.sp - 2#16) →
    ∃ t, exec (.call ea) s = .next t ∧ PushEffect (nextPc (.call ea) s) s t ∧ t.pc = target ∧ t.flag = s.flag ∧ RestKept s t

/-- 44_jump_call.md R176 and 46_stack_return.md R186 to R188: POP directly after PUSH of the same register restores the register and
the stack pointer, and RET directly after CALL continues after the CALL with every register as before, when the pushed word does not
lie in the display region, whose even bytes hold nothing (decisions D8 and D9, log 20). Premise: the privilege check lets PUSH,
POP and RET run (60_exceptions.md R216). -/
def Obligations.PopUndoesPush : Prop :=
  ∀ (s t : State), WordAllowed s .stack (s.sp - 2#16) → regionOf (s.sp - 2#16).toNat ≠ .attrib →
    (∀ rd : Reg, privAllowed (.push rd) s = true → privAllowed (.pop rd) s = true → exec (.push rd) s = .next t →
      ∃ u, exec (.pop rd) t = .next u ∧ RegsKept s u ∧ u.flag = s.flag ∧ MemKept t u ∧ RestKept s u) ∧
    (∀ ea : JumpEA, privAllowed .ret s = true → exec (.call ea) s = .next t →
      ∃ u, exec .ret t = .next u ∧ RegsKept s u ∧ u.pc = nextPc (.call ea) s ∧ u.flag = s.flag ∧ MemKept t u ∧ RestKept s u)

/-! ### IN and OUT -/

/-- 45_io.md R181, 20_memory.md R66, 60_exceptions.md R222: where the privilege check lets it run (R216, R217: decisions D21 and
D22, logs 6 and 33) and the address is one of the map, IN makes one read of the mode's width, whose bytes are 00h at the "00H"
addresses and elsewhere an oracle's answer to the I/O history, puts it, a byte zero-extended (decision D6, log 28), in Rd and
changes nothing else but PC (decisions D34 and D36, log 14). -/
def Obligations.InEffect : Prop :=
  ∃ oracle : List IoEvent → Word → Byte, ∀ (rd : Reg) (ea : PortEA) (s : State) (port : Word),
    privAllowed (.inp rd ea) s = true → rd ≠ .pc → portAddr s ea = .ok port → IoAddressable (PortEA.width ea) port →
    ∃ t v, exec (.inp rd ea) s = .next t ∧ RegsAfterWrite rd v s t ∧
      (PortEA.width ea = .word → v = (if ioZeroByte port = true then 0#8 else oracle s.ioLog port) ++
        (if ioZeroByte (port + 1#16) = true then 0#8 else oracle s.ioLog (port + 1#16))) ∧
      (PortEA.width ea = .byte → v.toNat = (if ioZeroByte port = true then 0#8 else oracle s.ioLog port).toNat) ∧
      t.ioLog = s.ioLog ++ [.read port (PortEA.width ea) v] ∧ t.flag = s.flag ∧ t.pc = nextPc (.inp rd ea) s ∧ MemKept s t ∧
      t.halted = s.halted ∧ t.irq = s.irq ∧ t.lowerLimit = s.lowerLimit ∧ t.upperLimit = s.upperLimit ∧ t.tick = s.tick ∧
      t.params = s.params

/-- 45_io.md R182, 20_memory.md R66, 60_exceptions.md R222 and R228: where the privilege check lets it run (R216, R217: decisions
D21 and D22, logs 6 and 33) and the address is a writable port of the map, OUT makes one write of the mode's width, an event of the
I/O history with the value that reaches the port, a byte OUT with Rd's bits 7:0 (decision D6, log 28), and changes nothing else but
PC and, at F4h to F7h, a limit register (decisions D34 and D36, logs 14, 15 and 16). -/
def Obligations.OutEffect : Prop :=
  ∀ (rd : Reg) (ea : PortEA) (s : State) (port v : Word), privAllowed (.outp rd ea) s = true → readReg s rd = .ok v →
    portAddr s ea = .ok port → IoAddressable (PortEA.width ea) port → ioHitsReadOnly (PortEA.width ea) port = false →
    ∃ t, exec (.outp rd ea) s = .next t ∧
      t.ioLog = s.ioLog ++ [.write port (PortEA.width ea)
        (if PortEA.width ea = .byte ∨ ioZeroByte port = true then v &&& 0x00FF#16 else v)] ∧
      RegsKept s t ∧ t.flag = s.flag ∧ t.pc = nextPc (.outp rd ea) s ∧ MemKept s t ∧ t.halted = s.halted ∧ t.irq = s.irq ∧
      t.tick = s.tick ∧ t.params = s.params ∧ (port ≠ 0xF4#16 → port ≠ 0xF5#16 → t.lowerLimit = s.lowerLimit) ∧
      (port ≠ 0xF6#16 → port ≠ 0xF7#16 → t.upperLimit = s.upperLimit)

/-- 60_exceptions.md R228: a 16-bit OUT to F4h or F6h, where the privilege check lets it run (decisions D21 and D22, logs 6 and 33),
sets the lower or the upper limit and not the other; these are the two values MEM_PROTECT reads in the check of every access; a
16-bit IN from the two ports answers what an oracle gives for the I/O history and the address (R222: decision D36; the model's
choice, log 14). -/
def Obligations.LimitRegisters : Prop :=
  (∀ (rd : Reg) (ea : PortEA) (s : State) (v : Word), privAllowed (.outp rd ea) s = true → readReg s rd = .ok v →
      PortEA.width ea = .word →
      (portAddr s ea = .ok 0xF4#16 →
        ∃ t, exec (.outp rd ea) s = .next t ∧ t.lowerLimit = v ∧ t.upperLimit = s.upperLimit) ∧
      (portAddr s ea = .ok 0xF6#16 →
        ∃ t, exec (.outp rd ea) s = .next t ∧ t.upperLimit = v ∧ t.lowerLimit = s.lowerLimit)) ∧
    (∀ (s : State) (k : AccessKind) (a : Word), denied s k a = memProtect s.params.memProtect s.flag.p k a s.lowerLimit s.upperLimit) ∧
    ∃ oracle : List IoEvent → Word → Byte, ∀ (rd : Reg) (ea : PortEA) (s : State) (port : Word),
      privAllowed (.inp rd ea) s = true → rd ≠ .pc → PortEA.width ea = .word → portAddr s ea = .ok port →
      port = 0xF4#16 ∨ port = 0xF6#16 →
      ∃ t, exec (.inp rd ea) s = .next t ∧ RegsAfterWrite rd (oracle s.ioLog port ++ oracle s.ioLog (port + 1#16)) s t

/-- 20_memory.md R66: where the privilege check lets them run, IN and OUT at an odd address with width 2, or outside the map, and
OUT to an (In) port, are refused by name (decision D34, logs 14 and 16). -/
def Obligations.IoRefusals : Prop :=
  ∀ (rd : Reg) (ea : PortEA) (s : State) (port : Word), rd ≠ .pc → portAddr s ea = .ok port →
    (privAllowed (.inp rd ea) s = true →
      (PortEA.width ea = .word → isOdd port = true → exec (.inp rd ea) s = .refused .ioMisaligned) ∧
        ((PortEA.width ea = .word → isOdd port = false) → (0x28 ≤ port.toNat ∧ port.toNat ≤ 0xF3) ∨ 0xFF < port.toNat →
          exec (.inp rd ea) s = .refused .ioUnmapped)) ∧
    (privAllowed (.outp rd ea) s = true →
      (PortEA.width ea = .word → isOdd port = true → exec (.outp rd ea) s = .refused .ioMisaligned) ∧
        ((PortEA.width ea = .word → isOdd port = false) → (0x28 ≤ port.toNat ∧ port.toNat ≤ 0xF3) ∨ 0xFF < port.toNat →
          exec (.outp rd ea) s = .refused .ioUnmapped) ∧
        (IoAddressable (PortEA.width ea) port → ioHitsReadOnly (PortEA.width ea) port = true →
          exec (.outp rd ea) s = .refused .ioReadOnlyPort))

/-! ### PUSH, POP, RET, RETI -/

/-- 46_stack_return.md R186: PUSH stores Rd, as it was before the decrement, below the stack pointer P selects (decision D8, log
20). Premise: the privilege check lets the instruction run (60_exceptions.md R216). -/
def Obligations.PushRegEffect : Prop :=
  ∀ (rd : Reg) (s : State) (v : Word), privAllowed (.push rd) s = true → readReg s rd = .ok v →
    WordWritable s .stack (s.sp - 2#16) →
    ∃ t, exec (.push rd) s = .next t ∧ PushEffect v s t ∧ t.flag = s.flag ∧ t.pc = s.pc + 2#16 ∧ RestKept s t

/-- 46_stack_return.md R187: POP reads the word at the stack pointer, moves the pointer up by 2, then writes Rd, which wins when Rd
is the stack pointer; memory and flags are unchanged. Premise: the privilege check lets the instruction run (60_exceptions.md R216). -/
def Obligations.PopRegEffect : Prop :=
  ∀ (rd : Reg) (s : State) (v : Word), privAllowed (.pop rd) s = true → rd ≠ .pc → readWord s .stack s.sp = .ok v →
    ∃ t, exec (.pop rd) s = .next t ∧
      (∀ n : Fin 13, t.gr[n] = if rd = .g n then v else s.gr[n]) ∧
      (t.ssp = if rd = .sp ∧ s.flag.p = true then v else if s.flag.p = true then s.ssp + 2#16 else s.ssp) ∧
      (t.usp = if rd = .usp ∨ (rd = .sp ∧ s.flag.p = false) then v else if s.flag.p = true then s.usp else s.usp + 2#16) ∧
      t.flag = s.flag ∧ t.pc = s.pc + 2#16 ∧ MemKept s t ∧ RestKept s t

/-- 46_stack_return.md R188: RET loads PC with the word at the stack pointer, unchecked, and moves the pointer up by 2. Premise: the
privilege check lets the instruction run (60_exceptions.md R216). -/
def Obligations.RetEffect : Prop :=
  ∀ (s : State) (v : Word), privAllowed .ret s = true → readWord s .stack s.sp = .ok v →
    ∃ t, exec .ret s = .next t ∧ t.pc = v ∧ (∀ n : Fin 13, t.gr[n] = s.gr[n]) ∧
      (t.ssp = if s.flag.p = true then s.ssp + 2#16 else s.ssp) ∧
      (t.usp = if s.flag.p = true then s.usp else s.usp + 2#16) ∧
      t.flag = s.flag ∧ MemKept s t ∧ RestKept s t

/-- 46_stack_return.md R189: RETI pops FLAG and then PC from the stack P selects before it; V, C, S, Z always come from the word, E,
P, I when P was 1, and when P was 0 the bits that USER_RETI_MASK names (decision D25, logs 8 and 22; the mask is an argument of the
model, and the recommended one names none of the three). Premise: the privilege check lets the instruction run (60_exceptions.md
R216). -/
def Obligations.RetiEffect : Prop :=
  ∀ (s : State) (f v : Word), privAllowed .reti s = true → readWord s .stack s.sp = .ok f →
    readWord s .stack (s.sp + 2#16) = .ok v →
    ∃ t, exec .reti s = .next t ∧ t.pc = v ∧ (∀ n : Fin 13, t.gr[n] = s.gr[n]) ∧
      (t.ssp = if s.flag.p = true then s.ssp + 4#16 else s.ssp) ∧
      (t.usp = if s.flag.p = true then s.usp else s.usp + 4#16) ∧
      t.flag.v = f.getLsbD 3 ∧ t.flag.c = f.getLsbD 2 ∧ t.flag.s = f.getLsbD 1 ∧ t.flag.z = f.getLsbD 0 ∧
      (s.flag.p = true → t.flag.e = f.getLsbD 7 ∧ t.flag.p = f.getLsbD 6 ∧ t.flag.i = f.getLsbD 5) ∧
      (s.flag.p = false →
        (t.flag.e = if s.params.userRetiMask.getLsbD 7 = true then f.getLsbD 7 else s.flag.e) ∧
          (t.flag.p = if s.params.userRetiMask.getLsbD 6 = true then f.getLsbD 6 else s.flag.p) ∧
          (t.flag.i = if s.params.userRetiMask.getLsbD 5 = true then f.getLsbD 5 else s.flag.i) ∧
          (s.params.userRetiMask = Params.recommended.userRetiMask → SystemFlagsKept s t)) ∧
      MemKept s t ∧ RestKept s t

/-! ### EI, DI, SVC, HALT -/

/-- 47_system.md R193 and R194: where the privilege check lets them run (decision D21, log 6), EI sets E and DI clears it, and
nothing else changes but PC. -/
def Obligations.EiDiEffect : Prop :=
  ∀ s : State,
    (privAllowed .ei s = true → exec .ei s = .next { s with flag := { s.flag with e := true }, pc := s.pc + 2#16 }) ∧
      (privAllowed .di s = true → exec .di s = .next { s with flag := { s.flag with e := false }, pc := s.pc + 2#16 })

/-- 47_system.md R195: SVC, in every mode and with every PRIV_SET, is trap entry through vector 15 with the address after it
(decisions D21, D23, D24, logs 6 and 21). -/
def Obligations.SvcEffect : Prop :=
  ∀ s : State, TrapReady 15 (s.pc + 2#16) s →
    ∃ t, exec .svc s = .next t ∧ TrapEffect 15 (s.pc + 2#16) s t

/-- 47_system.md R197: where the privilege check lets it run, HALT advances PC and stops the CPU; a halted CPU has no step
(decisions D21 and D30, logs 6 and 25). -/
def Obligations.HaltEffect : Prop :=
  ∀ s : State,
    (privAllowed .halt s = true → exec .halt s = .next { s with pc := s.pc + 2#16, halted := true }) ∧
      (s.halted = true → step s = .fault .halted)

/-! ### The whole machine -/

/-- The memory of the reset state has its canonical form (20_memory.md R60; the model's own invariant, log 4). -/
def Obligations.InvAtReset : Prop :=
  Inv State.reset

/-- Every step keeps the canonical form of the memory: addresses rising, in the memory space, and none of them an attribute byte,
which holds nothing (20_memory.md R50, R61; the form is the model's, log 4). -/
def Obligations.StepKeepsInv : Prop :=
  ∀ s t : State, Inv s → step s = .next t → Inv t

/-- 20_memory.md R62: no step changes a byte of ROM, an interrupt's entry included (decision D33, log 34). -/
def Obligations.StepKeepsRom : Prop :=
  ∀ s t : State, step s = .next t → RomKept s t

/-- 60_exceptions.md R219: P changes from 0 to 1 only by trap entry, or, where USER_RETI_MASK names P, as the recommended one does
not, by a RETI that pops a FLAG word with bit 6 set; and from 1 to 0 only by a RETI that pops a FLAG word with bit 6 clear (decision
D25, logs 8 and 22). -/
def Obligations.ModeChanges : Prop :=
  Params.recommended.userRetiMask.getLsbD 6 = false ∧ ∀ s t : State, step s = .next t →
    (s.flag.p = false → t.flag.p = true →
      (∃ (n : Fin 16) (spc : Word) (u : State), trapEntry n spc s = .next u ∧ t = endStep u) ∨
        (s.params.userRetiMask.getLsbD 6 = true ∧ pendingInterrupt s = none ∧ fetch s = .ok .reti ∧
          ∃ f : Word, readWord s .stack s.usp = .ok f ∧ f.getLsbD 6 = true)) ∧
    (s.flag.p = true → t.flag.p = false →
      pendingInterrupt s = none ∧ fetch s = .ok .reti ∧
        ∃ f : Word, readWord s .stack s.ssp = .ok f ∧ f.getLsbD 6 = false)

/-- 60_exceptions.md R218: what a step that stays in user mode cannot do: change SSP, or a byte that MEM_PROTECT denies to writes
and to the stack; and, under the recommended parameters (logs 6, 7, 8 and 33), change E, P or I, stop the CPU, change a byte outside
the limits, or, with I = 0, reach the I/O space or the limit registers. -/
def Obligations.UserModeConfined : Prop :=
  ∀ s t : State, step s = .next t → s.flag.p = false → t.flag.p = false →
    t.ssp = s.ssp ∧
      (∀ a : Word, denied s .write a = true → denied s .stack a = true → t.mem.get a.toNat = s.mem.get a.toNat) ∧
      (s.params = Params.recommended →
        SystemFlagsKept s t ∧ t.halted = false ∧
          (∀ a : Word, (a.toNat < s.lowerLimit.toNat ∨ s.upperLimit.toNat < a.toNat) →
            t.mem.get a.toNat = s.mem.get a.toNat) ∧
          (s.flag.i = false → t.ioLog = s.ioLog ∧ t.lowerLimit = s.lowerLimit ∧ t.upperLimit = s.upperLimit))

/-- 10_state.md R25, R31 and 60_exceptions.md R216: register number Eh is USP in both modes (decision D42, log 23) and with P = 0 no
register number reaches SSP; and a step that stays in user mode neither reads nor writes SSP, whatever PRIV_SET, MEM_PROTECT and
USER_RETI_MASK are: with any other value in it, the step ends in the same state but for that value. The two runs are given the same
free values: draws, attribute bytes and interrupt requests of the same step index, I/O answers of the same history (the model's
choice, logs 10, 13, 14, 15 and 17). -/
def Obligations.UserModeIgnoresSsp : Prop :=
  (∀ (s : State) (v : Word), readReg s (.ofNum 14#4) = .ok s.usp ∧ writeReg s (.ofNum 14#4) v = .ok { s with usp := v }) ∧
    (∀ (n : Nibble) (s t : State) (v : Word), s.flag.p = false →
      readReg { s with ssp := v } (.ofNum n) = readReg s (.ofNum n) ∧
        (writeReg s (.ofNum n) v = .ok t → t.ssp = s.ssp)) ∧
    ∀ (s t : State) (v : Word), step s = .next t → s.flag.p = false → t.flag.p = false →
      step { s with ssp := v } = .next { t with ssp := v }

/-- 10_state.md R31: what writes FLAG: an instruction that does not end in trap entry changes V, C, S, Z only if its flag column is
a circle or it is RETI, E only if it is EI, DI or RETI, and P and I only if it is RETI (decision D11, log 27). -/
def Obligations.FlagWriters : Prop :=
  ∀ (i : Instr) (s t : State), exec i s = .next t →
    (∃ (n : Fin 16) (spc : Word), trapEntry n spc s = .next t) ∨
      ((writesCond i = false → i ≠ .reti →
          t.flag.v = s.flag.v ∧ t.flag.c = s.flag.c ∧ t.flag.s = s.flag.s ∧ t.flag.z = s.flag.z) ∧
        (i ≠ .ei → i ≠ .di → i ≠ .reti → t.flag.e = s.flag.e) ∧
        (i ≠ .reti → t.flag.p = s.flag.p ∧ t.flag.i = s.flag.i))

/-- 20_memory.md R58 and R68: the only instructions that write memory are ST, PUSH and CALL, beside trap entry; only IN and OUT
reach the I/O space, with exactly one access each (decision D36, log 14). -/
def Obligations.MemoryAndIoWriters : Prop :=
  ∀ (i : Instr) (s t : State), exec i s = .next t →
    (t.mem ≠ s.mem → (∃ (n : Fin 16) (spc : Word), trapEntry n spc s = .next t) ∨ (∃ rd m, i = .st rd m) ∨
      (∃ rd, i = .push rd) ∨ (∃ ea, i = .call ea)) ∧
    (t.ioLog ≠ s.ioLog → ∃ (rd : Reg) (ea : PortEA) (e : IoEvent), (i = .inp rd ea ∨ i = .outp rd ea) ∧
      t.ioLog = s.ioLog ++ [e])

/-- 10_state.md R39 and 70_reset_and_hazards.md R240: the values the spec recommends after reset: PC F000h, FLAG 0040h, not halted,
no interrupt pending (decision D29, log 3). No byte of the memory holds a value: RAM, VRAM and vector table because the spec leaves
them unspecified (log 4), and the ROM because its content is launch data that reset does not place (the model's choice, log 5).
PRIV_SET, MEM_PROTECT and USER_RETI_MASK have the values the spec recommends (decisions D21, D25, D35; logs 6, 7, 8). The other
registers' values are the model's own, logs 1 and 2, and are not stated here. -/
def Obligations.ResetState : Prop :=
  State.reset.pc = 0xF000#16 ∧ State.reset.flag.toWord = 0x0040#16 ∧ State.reset.halted = false ∧ State.reset.irq = 0#10 ∧
    State.reset.params = Params.recommended ∧ ∀ a : Nat, State.reset.mem.get a = none

/-- 00_scope.md R5: PRIV_SET, MEM_PROTECT and USER_RETI_MASK are arguments: no step changes them, so one run has one value of each
(logs 6, 7, 8). -/
def Obligations.StepKeepsParams : Prop :=
  ∀ s t : State, step s = .next t → t.params = s.params

end
end

