-- ==== Sys2Proof/Laws/Decode.lean ====
section
/-! SUPPORT. Laws/Decode.lean: the small lemmas of the fields, bytes and register numbers of Decode.lean. -/

namespace Sys2Proof

/-- The bits of a packed first word. -/
theorem getLsbD_packWord (op : BitVec 8) (rd rx : Nibble) (i : Nat) :
    (packWord op rd rx).getLsbD i =
      if i < 8 then (if i < 4 then rx.getLsbD i else rd.getLsbD (i - 4)) else op.getLsbD (i - 8) := by
  have h1 : (packWord op rd rx).getLsbD i = if i < 8 then (rd ++ rx).getLsbD i else op.getLsbD (i - 8) :=
    BitVec.getLsbD_append (x := op) (y := rd ++ rx) (i := i)
  rw [h1, BitVec.getLsbD_append]

/-- The bits of a word made of two bytes. -/
theorem getLsbD_wordOfBytes (hi lo : Byte) (i : Nat) :
    (wordOfBytes hi lo).getLsbD i = if i < 8 then lo.getLsbD i else hi.getLsbD (i - 8) :=
  BitVec.getLsbD_append (x := hi) (y := lo) (i := i)

@[simp] theorem opField_packWord (op : BitVec 8) (rd rx : Nibble) : opField (packWord op rd rx) = op := by
  apply BitVec.eq_of_getLsbD_eq
  intro i hi
  rw [opField, BitVec.getLsbD_extractLsb', getLsbD_packWord]
  simp [hi]

@[simp] theorem rdField_packWord (op : BitVec 8) (rd rx : Nibble) : rdField (packWord op rd rx) = rd := by
  apply BitVec.eq_of_getLsbD_eq
  intro i hi
  rw [rdField, BitVec.getLsbD_extractLsb', getLsbD_packWord]
  have : 4 + i < 8 := by omega
  simp [hi, this]

@[simp] theorem rxField_packWord (op : BitVec 8) (rd rx : Nibble) : rxField (packWord op rd rx) = rx := by
  apply BitVec.eq_of_getLsbD_eq
  intro i hi
  rw [rxField, BitVec.getLsbD_extractLsb', getLsbD_packWord]
  have : i < 8 := by omega
  simp [hi, this]

@[simp] theorem hiByte_wordOfBytes (hi lo : Byte) : hiByte (wordOfBytes hi lo) = hi := by
  apply BitVec.eq_of_getLsbD_eq
  intro i h
  rw [hiByte, BitVec.getLsbD_extractLsb', getLsbD_wordOfBytes]
  simp [h]

@[simp] theorem loByte_wordOfBytes (hi lo : Byte) : loByte (wordOfBytes hi lo) = lo := by
  apply BitVec.eq_of_getLsbD_eq
  intro i h
  rw [loByte, BitVec.getLsbD_extractLsb', getLsbD_wordOfBytes]
  simp [h]

@[simp] theorem wordOfBytes_hi_lo (w : Word) : wordOfBytes (hiByte w) (loByte w) = w := by
  apply BitVec.eq_of_getLsbD_eq
  intro i h
  rw [getLsbD_wordOfBytes, hiByte, loByte, BitVec.getLsbD_extractLsb', BitVec.getLsbD_extractLsb']
  by_cases h8 : i < 8
  · simp [h8]
  · have : i - 8 < 8 := by omega
    have h3 : 8 + (i - 8) = i := by omega
    simp [h8, this, h3]

/-- A register's number names it. -/
@[simp] theorem Reg.ofNum_num (r : Reg) : Reg.ofNum r.num = r := by
  cases r with
  | g n => revert n; decide
  | sp => decide
  | usp => decide
  | pc => decide

/-- The row and the column of an OP byte. -/
theorem opRow_opByte {row col : Nat} (hr : row < 32) (hc : col < 8) : opRow (opByte row col) = row := by
  simp only [opRow, opByte, BitVec.toNat_ofNat]; omega

theorem opCol_opByte {row col : Nat} (hc : col < 8) : opCol (opByte row col) = col := by
  simp only [opCol, opByte, BitVec.toNat_ofNat]; omega

/-- Decoding a packed first word, in terms of its parts. -/
theorem decodeWords_packWord {row col : Nat} (hr : row < 32) (hc : col < 8) (rd rx : Nibble) (w2 : Word) :
    decodeWords (packWord (opByte row col) rd rx) w2 =
      match opCell row col with
      | none => .error .undefinedOp
      | some f => (decodeCell row col f rd rx w2).bind checkWellFormed := by
  cases h : opCell row col <;>
    simp only [decodeWords, opField_packWord, rdField_packWord, rxField_packWord, opRow_opByte hr hc, opCol_opByte hc, h]

end Sys2Proof
end

