-- ==== Sys2Proof/Laws/Memory.lean ====
section
/-! SUPPORT. Laws/Memory.lean: read after write, writes elsewhere, and that every memory operation keeps the canonical form. -/

namespace Sys2Proof.Machine

/-- Reading the address just written gives the byte written. -/
@[simp] theorem Memory.get_set_self (m : Memory) (a : Nat) (v : Byte) : (m.set a v).get a = some v := by
  induction m with
  | nil => simp [Memory.set, Memory.get]
  | cons c m ih =>
    obtain ⟨k, w⟩ := c
    unfold Memory.set
    by_cases h1 : a < k
    · simp [h1, Memory.get]
    · by_cases h2 : a = k
      · simp [h2, Memory.get]
      · simp [h1, h2, Memory.get, ih]

/-- A write leaves every other address alone. -/
theorem Memory.get_set_ne (m : Memory) {a b : Nat} (v : Byte) (h : b ≠ a) : (m.set a v).get b = m.get b := by
  induction m with
  | nil => simp [Memory.set, Memory.get, h]
  | cons c m ih =>
    obtain ⟨k, w⟩ := c
    unfold Memory.set
    by_cases h1 : a < k
    · simp [h1, Memory.get, h]
    · by_cases h2 : a = k
      · subst h2; simp [Memory.get, h]
      · simp [h1, h2, Memory.get, ih]

/-- Reading after a write, in one form. -/
theorem Memory.get_set (m : Memory) (a b : Nat) (v : Byte) :
    (m.set a v).get b = if b = a then some v else m.get b := by
  by_cases h : b = a
  · subst h; simp
  · simp [h, Memory.get_set_ne m v h]

/-- Putting a byte at a legal address keeps the canonical form. -/
theorem Memory.wfFrom_set (m : Memory) (lo a : Nat) (v : Byte) (hm : Memory.wfFrom lo m = true) (hlo : lo ≤ a)
    (ha : a < 65536) (hr : regionOf a ≠ .attrib) : Memory.wfFrom lo (m.set a v) = true := by
  induction m generalizing lo with
  | nil => simp [Memory.set, Memory.wfFrom, hlo, ha, hr]
  | cons c m ih =>
    obtain ⟨k, w⟩ := c
    simp only [Memory.wfFrom, Bool.and_eq_true, decide_eq_true_eq, bne_iff_ne, ne_eq] at hm
    obtain ⟨⟨⟨hk, hk2⟩, hkr⟩, hrest⟩ := hm
    unfold Memory.set
    by_cases h1 : a < k
    · have : a + 1 ≤ k := h1
      simp [h1, Memory.wfFrom, hlo, ha, hr, this, hk2, hkr, hrest]
    · by_cases h2 : a = k
      · subst h2; simp [Memory.wfFrom, hlo, ha, hr, hrest]
      · have h3 : k + 1 ≤ a := by omega
        simp [h1, h2, Memory.wfFrom, hk, hk2, hkr, ih (k + 1) hrest h3]

/-- A store keeps the canonical form. -/
theorem Memory.wf_store (m : Memory) (a : Word) (v : Byte) (h : m.wf = true) : (m.store a v).wf = true := by
  unfold Memory.store
  split
  · exact h
  · next hr => exact Memory.wfFrom_set m 0 a.toNat v h (Nat.zero_le _) a.isLt hr

/-- What an address holds after a store: the byte, but for an attribute byte, which holds nothing. -/
theorem Memory.get_store (m : Memory) (a : Word) (b : Nat) (v : Byte) :
    (m.store a v).get b = if b = a.toNat ∧ regionOf a.toNat ≠ .attrib then some v else m.get b := by
  unfold Memory.store
  by_cases hr : regionOf a.toNat = .attrib
  · simp [hr]
  · simp [hr, Memory.get_set]

/-- A store leaves every other address alone. -/
theorem Memory.get_store_ne (m : Memory) (a : Word) {b : Nat} (v : Byte) (h : b ≠ a.toNat) :
    (m.store a v).get b = m.get b := by
  simp [Memory.get_store, h]

end Sys2Proof.Machine
end

