-- ==== Sys2Proof/Laws/State.lean ====
section
/-! SUPPORT. Laws/State.lean: one lemma per field of State and per update, so that no later proof unfolds a record update, and
the same for the register, stack-pointer and byte updates of Machine/Ops.lean that are state functions. -/

namespace Sys2Proof.Machine

@[simp] theorem State.setGr_gr (s : State) (n : Fin 13) (v : Word) : (s.setGr n v).gr = s.gr.set n v := rfl
@[simp] theorem State.setGr_ssp (s : State) (n : Fin 13) (v : Word) : (s.setGr n v).ssp = s.ssp := rfl
@[simp] theorem State.setGr_usp (s : State) (n : Fin 13) (v : Word) : (s.setGr n v).usp = s.usp := rfl
@[simp] theorem State.setGr_pc (s : State) (n : Fin 13) (v : Word) : (s.setGr n v).pc = s.pc := rfl
@[simp] theorem State.setGr_flag (s : State) (n : Fin 13) (v : Word) : (s.setGr n v).flag = s.flag := rfl
@[simp] theorem State.setGr_halted (s : State) (n : Fin 13) (v : Word) : (s.setGr n v).halted = s.halted := rfl
@[simp] theorem State.setGr_irq (s : State) (n : Fin 13) (v : Word) : (s.setGr n v).irq = s.irq := rfl
@[simp] theorem State.setGr_lowerLimit (s : State) (n : Fin 13) (v : Word) : (s.setGr n v).lowerLimit = s.lowerLimit := rfl
@[simp] theorem State.setGr_upperLimit (s : State) (n : Fin 13) (v : Word) : (s.setGr n v).upperLimit = s.upperLimit := rfl
@[simp] theorem State.setGr_mem (s : State) (n : Fin 13) (v : Word) : (s.setGr n v).mem = s.mem := rfl
@[simp] theorem State.setGr_ioLog (s : State) (n : Fin 13) (v : Word) : (s.setGr n v).ioLog = s.ioLog := rfl
@[simp] theorem State.setGr_tick (s : State) (n : Fin 13) (v : Word) : (s.setGr n v).tick = s.tick := rfl
@[simp] theorem State.setGr_params (s : State) (n : Fin 13) (v : Word) : (s.setGr n v).params = s.params := rfl

@[simp] theorem State.setSsp_gr (s : State) (v : Word) : (s.setSsp v).gr = s.gr := rfl
@[simp] theorem State.setSsp_ssp (s : State) (v : Word) : (s.setSsp v).ssp = v := rfl
@[simp] theorem State.setSsp_usp (s : State) (v : Word) : (s.setSsp v).usp = s.usp := rfl
@[simp] theorem State.setSsp_pc (s : State) (v : Word) : (s.setSsp v).pc = s.pc := rfl
@[simp] theorem State.setSsp_flag (s : State) (v : Word) : (s.setSsp v).flag = s.flag := rfl
@[simp] theorem State.setSsp_halted (s : State) (v : Word) : (s.setSsp v).halted = s.halted := rfl
@[simp] theorem State.setSsp_irq (s : State) (v : Word) : (s.setSsp v).irq = s.irq := rfl
@[simp] theorem State.setSsp_lowerLimit (s : State) (v : Word) : (s.setSsp v).lowerLimit = s.lowerLimit := rfl
@[simp] theorem State.setSsp_upperLimit (s : State) (v : Word) : (s.setSsp v).upperLimit = s.upperLimit := rfl
@[simp] theorem State.setSsp_mem (s : State) (v : Word) : (s.setSsp v).mem = s.mem := rfl
@[simp] theorem State.setSsp_ioLog (s : State) (v : Word) : (s.setSsp v).ioLog = s.ioLog := rfl
@[simp] theorem State.setSsp_tick (s : State) (v : Word) : (s.setSsp v).tick = s.tick := rfl
@[simp] theorem State.setSsp_params (s : State) (v : Word) : (s.setSsp v).params = s.params := rfl

@[simp] theorem State.setUsp_gr (s : State) (v : Word) : (s.setUsp v).gr = s.gr := rfl
@[simp] theorem State.setUsp_ssp (s : State) (v : Word) : (s.setUsp v).ssp = s.ssp := rfl
@[simp] theorem State.setUsp_usp (s : State) (v : Word) : (s.setUsp v).usp = v := rfl
@[simp] theorem State.setUsp_pc (s : State) (v : Word) : (s.setUsp v).pc = s.pc := rfl
@[simp] theorem State.setUsp_flag (s : State) (v : Word) : (s.setUsp v).flag = s.flag := rfl
@[simp] theorem State.setUsp_halted (s : State) (v : Word) : (s.setUsp v).halted = s.halted := rfl
@[simp] theorem State.setUsp_irq (s : State) (v : Word) : (s.setUsp v).irq = s.irq := rfl
@[simp] theorem State.setUsp_lowerLimit (s : State) (v : Word) : (s.setUsp v).lowerLimit = s.lowerLimit := rfl
@[simp] theorem State.setUsp_upperLimit (s : State) (v : Word) : (s.setUsp v).upperLimit = s.upperLimit := rfl
@[simp] theorem State.setUsp_mem (s : State) (v : Word) : (s.setUsp v).mem = s.mem := rfl
@[simp] theorem State.setUsp_ioLog (s : State) (v : Word) : (s.setUsp v).ioLog = s.ioLog := rfl
@[simp] theorem State.setUsp_tick (s : State) (v : Word) : (s.setUsp v).tick = s.tick := rfl
@[simp] theorem State.setUsp_params (s : State) (v : Word) : (s.setUsp v).params = s.params := rfl

@[simp] theorem State.setPc_gr (s : State) (v : Word) : (s.setPc v).gr = s.gr := rfl
@[simp] theorem State.setPc_ssp (s : State) (v : Word) : (s.setPc v).ssp = s.ssp := rfl
@[simp] theorem State.setPc_usp (s : State) (v : Word) : (s.setPc v).usp = s.usp := rfl
@[simp] theorem State.setPc_pc (s : State) (v : Word) : (s.setPc v).pc = v := rfl
@[simp] theorem State.setPc_flag (s : State) (v : Word) : (s.setPc v).flag = s.flag := rfl
@[simp] theorem State.setPc_halted (s : State) (v : Word) : (s.setPc v).halted = s.halted := rfl
@[simp] theorem State.setPc_irq (s : State) (v : Word) : (s.setPc v).irq = s.irq := rfl
@[simp] theorem State.setPc_lowerLimit (s : State) (v : Word) : (s.setPc v).lowerLimit = s.lowerLimit := rfl
@[simp] theorem State.setPc_upperLimit (s : State) (v : Word) : (s.setPc v).upperLimit = s.upperLimit := rfl
@[simp] theorem State.setPc_mem (s : State) (v : Word) : (s.setPc v).mem = s.mem := rfl
@[simp] theorem State.setPc_ioLog (s : State) (v : Word) : (s.setPc v).ioLog = s.ioLog := rfl
@[simp] theorem State.setPc_tick (s : State) (v : Word) : (s.setPc v).tick = s.tick := rfl
@[simp] theorem State.setPc_params (s : State) (v : Word) : (s.setPc v).params = s.params := rfl

@[simp] theorem State.setFlag_gr (s : State) (f : Flags) : (s.setFlag f).gr = s.gr := rfl
@[simp] theorem State.setFlag_ssp (s : State) (f : Flags) : (s.setFlag f).ssp = s.ssp := rfl
@[simp] theorem State.setFlag_usp (s : State) (f : Flags) : (s.setFlag f).usp = s.usp := rfl
@[simp] theorem State.setFlag_pc (s : State) (f : Flags) : (s.setFlag f).pc = s.pc := rfl
@[simp] theorem State.setFlag_flag (s : State) (f : Flags) : (s.setFlag f).flag = f := rfl
@[simp] theorem State.setFlag_halted (s : State) (f : Flags) : (s.setFlag f).halted = s.halted := rfl
@[simp] theorem State.setFlag_irq (s : State) (f : Flags) : (s.setFlag f).irq = s.irq := rfl
@[simp] theorem State.setFlag_lowerLimit (s : State) (f : Flags) : (s.setFlag f).lowerLimit = s.lowerLimit := rfl
@[simp] theorem State.setFlag_upperLimit (s : State) (f : Flags) : (s.setFlag f).upperLimit = s.upperLimit := rfl
@[simp] theorem State.setFlag_mem (s : State) (f : Flags) : (s.setFlag f).mem = s.mem := rfl
@[simp] theorem State.setFlag_ioLog (s : State) (f : Flags) : (s.setFlag f).ioLog = s.ioLog := rfl
@[simp] theorem State.setFlag_tick (s : State) (f : Flags) : (s.setFlag f).tick = s.tick := rfl
@[simp] theorem State.setFlag_params (s : State) (f : Flags) : (s.setFlag f).params = s.params := rfl

@[simp] theorem State.setHalted_gr (s : State) : (s.setHalted).gr = s.gr := rfl
@[simp] theorem State.setHalted_ssp (s : State) : (s.setHalted).ssp = s.ssp := rfl
@[simp] theorem State.setHalted_usp (s : State) : (s.setHalted).usp = s.usp := rfl
@[simp] theorem State.setHalted_pc (s : State) : (s.setHalted).pc = s.pc := rfl
@[simp] theorem State.setHalted_flag (s : State) : (s.setHalted).flag = s.flag := rfl
@[simp] theorem State.setHalted_halted (s : State) : (s.setHalted).halted = true := rfl
@[simp] theorem State.setHalted_irq (s : State) : (s.setHalted).irq = s.irq := rfl
@[simp] theorem State.setHalted_lowerLimit (s : State) : (s.setHalted).lowerLimit = s.lowerLimit := rfl
@[simp] theorem State.setHalted_upperLimit (s : State) : (s.setHalted).upperLimit = s.upperLimit := rfl
@[simp] theorem State.setHalted_mem (s : State) : (s.setHalted).mem = s.mem := rfl
@[simp] theorem State.setHalted_ioLog (s : State) : (s.setHalted).ioLog = s.ioLog := rfl
@[simp] theorem State.setHalted_tick (s : State) : (s.setHalted).tick = s.tick := rfl
@[simp] theorem State.setHalted_params (s : State) : (s.setHalted).params = s.params := rfl

@[simp] theorem State.setLower_gr (s : State) (v : Word) : (s.setLower v).gr = s.gr := rfl
@[simp] theorem State.setLower_ssp (s : State) (v : Word) : (s.setLower v).ssp = s.ssp := rfl
@[simp] theorem State.setLower_usp (s : State) (v : Word) : (s.setLower v).usp = s.usp := rfl
@[simp] theorem State.setLower_pc (s : State) (v : Word) : (s.setLower v).pc = s.pc := rfl
@[simp] theorem State.setLower_flag (s : State) (v : Word) : (s.setLower v).flag = s.flag := rfl
@[simp] theorem State.setLower_halted (s : State) (v : Word) : (s.setLower v).halted = s.halted := rfl
@[simp] theorem State.setLower_irq (s : State) (v : Word) : (s.setLower v).irq = s.irq := rfl
@[simp] theorem State.setLower_lowerLimit (s : State) (v : Word) : (s.setLower v).lowerLimit = v := rfl
@[simp] theorem State.setLower_upperLimit (s : State) (v : Word) : (s.setLower v).upperLimit = s.upperLimit := rfl
@[simp] theorem State.setLower_mem (s : State) (v : Word) : (s.setLower v).mem = s.mem := rfl
@[simp] theorem State.setLower_ioLog (s : State) (v : Word) : (s.setLower v).ioLog = s.ioLog := rfl
@[simp] theorem State.setLower_tick (s : State) (v : Word) : (s.setLower v).tick = s.tick := rfl
@[simp] theorem State.setLower_params (s : State) (v : Word) : (s.setLower v).params = s.params := rfl

@[simp] theorem State.setUpper_gr (s : State) (v : Word) : (s.setUpper v).gr = s.gr := rfl
@[simp] theorem State.setUpper_ssp (s : State) (v : Word) : (s.setUpper v).ssp = s.ssp := rfl
@[simp] theorem State.setUpper_usp (s : State) (v : Word) : (s.setUpper v).usp = s.usp := rfl
@[simp] theorem State.setUpper_pc (s : State) (v : Word) : (s.setUpper v).pc = s.pc := rfl
@[simp] theorem State.setUpper_flag (s : State) (v : Word) : (s.setUpper v).flag = s.flag := rfl
@[simp] theorem State.setUpper_halted (s : State) (v : Word) : (s.setUpper v).halted = s.halted := rfl
@[simp] theorem State.setUpper_irq (s : State) (v : Word) : (s.setUpper v).irq = s.irq := rfl
@[simp] theorem State.setUpper_lowerLimit (s : State) (v : Word) : (s.setUpper v).lowerLimit = s.lowerLimit := rfl
@[simp] theorem State.setUpper_upperLimit (s : State) (v : Word) : (s.setUpper v).upperLimit = v := rfl
@[simp] theorem State.setUpper_mem (s : State) (v : Word) : (s.setUpper v).mem = s.mem := rfl
@[simp] theorem State.setUpper_ioLog (s : State) (v : Word) : (s.setUpper v).ioLog = s.ioLog := rfl
@[simp] theorem State.setUpper_tick (s : State) (v : Word) : (s.setUpper v).tick = s.tick := rfl
@[simp] theorem State.setUpper_params (s : State) (v : Word) : (s.setUpper v).params = s.params := rfl

@[simp] theorem State.setMem_gr (s : State) (m : Memory) : (s.setMem m).gr = s.gr := rfl
@[simp] theorem State.setMem_ssp (s : State) (m : Memory) : (s.setMem m).ssp = s.ssp := rfl
@[simp] theorem State.setMem_usp (s : State) (m : Memory) : (s.setMem m).usp = s.usp := rfl
@[simp] theorem State.setMem_pc (s : State) (m : Memory) : (s.setMem m).pc = s.pc := rfl
@[simp] theorem State.setMem_flag (s : State) (m : Memory) : (s.setMem m).flag = s.flag := rfl
@[simp] theorem State.setMem_halted (s : State) (m : Memory) : (s.setMem m).halted = s.halted := rfl
@[simp] theorem State.setMem_irq (s : State) (m : Memory) : (s.setMem m).irq = s.irq := rfl
@[simp] theorem State.setMem_lowerLimit (s : State) (m : Memory) : (s.setMem m).lowerLimit = s.lowerLimit := rfl
@[simp] theorem State.setMem_upperLimit (s : State) (m : Memory) : (s.setMem m).upperLimit = s.upperLimit := rfl
@[simp] theorem State.setMem_mem (s : State) (m : Memory) : (s.setMem m).mem = m := rfl
@[simp] theorem State.setMem_ioLog (s : State) (m : Memory) : (s.setMem m).ioLog = s.ioLog := rfl
@[simp] theorem State.setMem_tick (s : State) (m : Memory) : (s.setMem m).tick = s.tick := rfl
@[simp] theorem State.setMem_params (s : State) (m : Memory) : (s.setMem m).params = s.params := rfl

@[simp] theorem State.logIo_gr (s : State) (e : IoEvent) : (s.logIo e).gr = s.gr := rfl
@[simp] theorem State.logIo_ssp (s : State) (e : IoEvent) : (s.logIo e).ssp = s.ssp := rfl
@[simp] theorem State.logIo_usp (s : State) (e : IoEvent) : (s.logIo e).usp = s.usp := rfl
@[simp] theorem State.logIo_pc (s : State) (e : IoEvent) : (s.logIo e).pc = s.pc := rfl
@[simp] theorem State.logIo_flag (s : State) (e : IoEvent) : (s.logIo e).flag = s.flag := rfl
@[simp] theorem State.logIo_halted (s : State) (e : IoEvent) : (s.logIo e).halted = s.halted := rfl
@[simp] theorem State.logIo_irq (s : State) (e : IoEvent) : (s.logIo e).irq = s.irq := rfl
@[simp] theorem State.logIo_lowerLimit (s : State) (e : IoEvent) : (s.logIo e).lowerLimit = s.lowerLimit := rfl
@[simp] theorem State.logIo_upperLimit (s : State) (e : IoEvent) : (s.logIo e).upperLimit = s.upperLimit := rfl
@[simp] theorem State.logIo_mem (s : State) (e : IoEvent) : (s.logIo e).mem = s.mem := rfl
@[simp] theorem State.logIo_ioLog (s : State) (e : IoEvent) : (s.logIo e).ioLog = s.ioLog ++ [e] := rfl
@[simp] theorem State.logIo_tick (s : State) (e : IoEvent) : (s.logIo e).tick = s.tick := rfl
@[simp] theorem State.logIo_params (s : State) (e : IoEvent) : (s.logIo e).params = s.params := rfl

@[simp] theorem endStep_gr (s : State) : (endStep s).gr = s.gr := rfl
@[simp] theorem endStep_ssp (s : State) : (endStep s).ssp = s.ssp := rfl
@[simp] theorem endStep_usp (s : State) : (endStep s).usp = s.usp := rfl
@[simp] theorem endStep_pc (s : State) : (endStep s).pc = s.pc := rfl
@[simp] theorem endStep_flag (s : State) : (endStep s).flag = s.flag := rfl
@[simp] theorem endStep_halted (s : State) : (endStep s).halted = s.halted := rfl
@[simp] theorem endStep_irq (s : State) : (endStep s).irq = Config.irqRequests s.tick := rfl
@[simp] theorem endStep_lowerLimit (s : State) : (endStep s).lowerLimit = s.lowerLimit := rfl
@[simp] theorem endStep_upperLimit (s : State) : (endStep s).upperLimit = s.upperLimit := rfl
@[simp] theorem endStep_mem (s : State) : (endStep s).mem = s.mem := rfl
@[simp] theorem endStep_ioLog (s : State) : (endStep s).ioLog = s.ioLog := rfl
@[simp] theorem endStep_tick (s : State) : (endStep s).tick = s.tick + 1 := rfl
@[simp] theorem endStep_params (s : State) : (endStep s).params = s.params := rfl

@[simp] theorem State.storeByte_gr (s : State) (a : Word) (v : Byte) : (s.storeByte a v).gr = s.gr := rfl
@[simp] theorem State.storeByte_ssp (s : State) (a : Word) (v : Byte) : (s.storeByte a v).ssp = s.ssp := rfl
@[simp] theorem State.storeByte_usp (s : State) (a : Word) (v : Byte) : (s.storeByte a v).usp = s.usp := rfl
@[simp] theorem State.storeByte_pc (s : State) (a : Word) (v : Byte) : (s.storeByte a v).pc = s.pc := rfl
@[simp] theorem State.storeByte_flag (s : State) (a : Word) (v : Byte) : (s.storeByte a v).flag = s.flag := rfl
@[simp] theorem State.storeByte_halted (s : State) (a : Word) (v : Byte) : (s.storeByte a v).halted = s.halted := rfl
@[simp] theorem State.storeByte_irq (s : State) (a : Word) (v : Byte) : (s.storeByte a v).irq = s.irq := rfl
@[simp] theorem State.storeByte_lowerLimit (s : State) (a : Word) (v : Byte) : (s.storeByte a v).lowerLimit = s.lowerLimit := rfl
@[simp] theorem State.storeByte_upperLimit (s : State) (a : Word) (v : Byte) : (s.storeByte a v).upperLimit = s.upperLimit := rfl
@[simp] theorem State.storeByte_mem (s : State) (a : Word) (v : Byte) : (s.storeByte a v).mem = s.mem.store a v := rfl
@[simp] theorem State.storeByte_ioLog (s : State) (a : Word) (v : Byte) : (s.storeByte a v).ioLog = s.ioLog := rfl
@[simp] theorem State.storeByte_tick (s : State) (a : Word) (v : Byte) : (s.storeByte a v).tick = s.tick := rfl
@[simp] theorem State.storeByte_params (s : State) (a : Word) (v : Byte) : (s.storeByte a v).params = s.params := rfl

@[simp] theorem State.storeWord_gr (s : State) (a : Word) (v : Word) : (s.storeWord a v).gr = s.gr := rfl
@[simp] theorem State.storeWord_ssp (s : State) (a : Word) (v : Word) : (s.storeWord a v).ssp = s.ssp := rfl
@[simp] theorem State.storeWord_usp (s : State) (a : Word) (v : Word) : (s.storeWord a v).usp = s.usp := rfl
@[simp] theorem State.storeWord_pc (s : State) (a : Word) (v : Word) : (s.storeWord a v).pc = s.pc := rfl
@[simp] theorem State.storeWord_flag (s : State) (a : Word) (v : Word) : (s.storeWord a v).flag = s.flag := rfl
@[simp] theorem State.storeWord_halted (s : State) (a : Word) (v : Word) : (s.storeWord a v).halted = s.halted := rfl
@[simp] theorem State.storeWord_irq (s : State) (a : Word) (v : Word) : (s.storeWord a v).irq = s.irq := rfl
@[simp] theorem State.storeWord_lowerLimit (s : State) (a : Word) (v : Word) : (s.storeWord a v).lowerLimit = s.lowerLimit := rfl
@[simp] theorem State.storeWord_upperLimit (s : State) (a : Word) (v : Word) : (s.storeWord a v).upperLimit = s.upperLimit := rfl
@[simp] theorem State.storeWord_mem (s : State) (a : Word) (v : Word) : (s.storeWord a v).mem = (s.mem.store a (hiByte v)).store (a + 1#16) (loByte v) := rfl
@[simp] theorem State.storeWord_ioLog (s : State) (a : Word) (v : Word) : (s.storeWord a v).ioLog = s.ioLog := rfl
@[simp] theorem State.storeWord_tick (s : State) (a : Word) (v : Word) : (s.storeWord a v).tick = s.tick := rfl
@[simp] theorem State.storeWord_params (s : State) (a : Word) (v : Word) : (s.storeWord a v).params = s.params := rfl

@[simp] theorem State.setSp_ssp (s : State) (v : Word) : (s.setSp v).ssp = if s.flag.p then v else s.ssp := by
  unfold State.setSp; split <;> rfl
@[simp] theorem State.setSp_usp (s : State) (v : Word) : (s.setSp v).usp = if s.flag.p then s.usp else v := by
  unfold State.setSp; split <;> rfl
@[simp] theorem State.setSp_gr (s : State) (v : Word) : (s.setSp v).gr = s.gr := by
  unfold State.setSp; split <;> rfl
@[simp] theorem State.setSp_pc (s : State) (v : Word) : (s.setSp v).pc = s.pc := by
  unfold State.setSp; split <;> rfl
@[simp] theorem State.setSp_flag (s : State) (v : Word) : (s.setSp v).flag = s.flag := by
  unfold State.setSp; split <;> rfl
@[simp] theorem State.setSp_halted (s : State) (v : Word) : (s.setSp v).halted = s.halted := by
  unfold State.setSp; split <;> rfl
@[simp] theorem State.setSp_irq (s : State) (v : Word) : (s.setSp v).irq = s.irq := by
  unfold State.setSp; split <;> rfl
@[simp] theorem State.setSp_lowerLimit (s : State) (v : Word) : (s.setSp v).lowerLimit = s.lowerLimit := by
  unfold State.setSp; split <;> rfl
@[simp] theorem State.setSp_upperLimit (s : State) (v : Word) : (s.setSp v).upperLimit = s.upperLimit := by
  unfold State.setSp; split <;> rfl
@[simp] theorem State.setSp_mem (s : State) (v : Word) : (s.setSp v).mem = s.mem := by
  unfold State.setSp; split <;> rfl
@[simp] theorem State.setSp_ioLog (s : State) (v : Word) : (s.setSp v).ioLog = s.ioLog := by
  unfold State.setSp; split <;> rfl
@[simp] theorem State.setSp_tick (s : State) (v : Word) : (s.setSp v).tick = s.tick := by
  unfold State.setSp; split <;> rfl
@[simp] theorem State.setSp_params (s : State) (v : Word) : (s.setSp v).params = s.params := by
  unfold State.setSp; split <;> rfl

/-- Reading a general register after writing one. -/
theorem State.setGr_getElem (s : State) (n k : Fin 13) (v : Word) :
    (s.setGr n v).gr[k] = if k = n then v else s.gr[k] := by
  simp only [State.setGr_gr, Fin.getElem_fin, Vector.getElem_set]
  by_cases h : k = n
  · subst h; simp
  · have h' : ¬ n.val = k.val := fun e => h (Fin.ext e.symm)
    simp [h, h']

/-- SP after writing SP. -/
@[simp] theorem State.sp_setSp (s : State) (v : Word) : (s.setSp v).sp = v := by
  unfold State.sp; rw [State.setSp_flag, State.setSp_ssp, State.setSp_usp]; split <;> rfl

end Sys2Proof.Machine
end

