-- ==== Sys2Proof/Laws/Ops.lean ====
section
/-! SUPPORT. Laws/Ops.lean: for each shared operation one lemma that says everything it can do when it answers, and the frames
of memory reads. Later proofs cite these and do not unfold the operations. -/

namespace Sys2Proof.Machine

/-! ### Res -/

@[simp] theorem Res.bind_ok {α β : Type} (a : α) (k : α → Res β) : (Res.ok a).bind k = k a := rfl
@[simp] theorem Res.bind_raise {α β : Type} (e : Exc) (k : α → Res β) : (Res.raise e).bind k = .raise e := rfl
@[simp] theorem Res.bind_fault {α β : Type} (f : Fault) (k : α → Res β) : (Res.fault f).bind k = .fault f := rfl
@[simp] theorem Res.bind_refused {α β : Type} (r : Refusal) (k : α → Res β) : (Res.refused r).bind k = .refused r := rfl
@[simp] theorem Res.map_ok {α β : Type} (a : α) (f : α → β) : (Res.ok a).map f = .ok (f a) := rfl
@[simp] theorem Res.map_raise {α β : Type} (e : Exc) (f : α → β) : (Res.raise e).map f = .raise e := rfl
@[simp] theorem Res.map_fault {α β : Type} (g : Fault) (f : α → β) : (Res.fault g).map f = .fault g := rfl
@[simp] theorem Res.map_refused {α β : Type} (r : Refusal) (f : α → β) : (Res.refused r).map f = .refused r := rfl

/-- A sequence answers exactly when both parts do. -/
theorem Res.bind_eq_ok {α β : Type} {x : Res α} {k : α → Res β} {b : β} :
    x.bind k = .ok b ↔ ∃ a, x = .ok a ∧ k a = .ok b := by
  cases x <;> simp

/-- A mapped result answers exactly when the result does. -/
theorem Res.map_eq_ok {α β : Type} {x : Res α} {f : α → β} {b : β} : x.map f = .ok b ↔ ∃ a, x = .ok a ∧ f a = b := by
  cases x <;> simp

/-- A sequence raises when its first part does, or its second part does after the first answered. -/
theorem Res.bind_eq_raise {α β : Type} {x : Res α} {k : α → Res β} {e : Exc} :
    x.bind k = .raise e ↔ x = .raise e ∨ ∃ a, x = .ok a ∧ k a = .raise e := by
  cases x <;> simp

/-! ### Registers -/

/-- A register read answers for every register but PC. -/
theorem readReg_eq_ok {s : State} {r : Reg} {v : Word} (h : readReg s r = .ok v) :
    (∃ n, r = .g n ∧ v = s.gr[n]) ∨ (r = .sp ∧ v = s.sp) ∨ (r = .usp ∧ v = s.usp) := by
  cases r <;> simp_all [readReg]

/-- A register other than PC can be read. -/
theorem readReg_isOk (s : State) {r : Reg} (h : r ≠ .pc) : ∃ v, readReg s r = .ok v := by
  cases r <;> simp_all [readReg]

/-- A register write answers with the one update the register's number names. -/
theorem writeReg_eq_ok {s t : State} {r : Reg} {v : Word} (h : writeReg s r v = .ok t) :
    (∃ n, r = .g n ∧ t = s.setGr n v) ∨ (r = .sp ∧ t = s.setSp v) ∨ (r = .usp ∧ t = s.setUsp v) := by
  cases r <;> simp_all [writeReg]

/-- A register other than PC can be written. -/
theorem writeReg_isOk (s : State) {r : Reg} (v : Word) (h : r ≠ .pc) : ∃ t, writeReg s r v = .ok t := by
  cases r <;> simp_all [writeReg]

/-- A register write changes nothing but the three register files it can reach. -/
theorem writeReg_frame {s t : State} {r : Reg} {v : Word} (h : writeReg s r v = .ok t) :
    t.pc = s.pc ∧ t.flag = s.flag ∧ t.halted = s.halted ∧ t.irq = s.irq ∧ t.lowerLimit = s.lowerLimit ∧
      t.upperLimit = s.upperLimit ∧ t.mem = s.mem ∧ t.ioLog = s.ioLog ∧ t.tick = s.tick ∧ t.params = s.params := by
  obtain ⟨n, rfl, rfl⟩ | ⟨rfl, rfl⟩ | ⟨rfl, rfl⟩ := writeReg_eq_ok h <;> simp

/-- SSP changes only through number Dh with P = 1 (10_state.md R25). -/
theorem writeReg_ssp {s t : State} {r : Reg} {v : Word} (h : writeReg s r v = .ok t) :
    t.ssp = if r = .sp ∧ s.flag.p = true then v else s.ssp := by
  obtain ⟨n, rfl, rfl⟩ | ⟨rfl, rfl⟩ | ⟨rfl, rfl⟩ := writeReg_eq_ok h <;> simp

/-! ### Memory -/

/-- A byte read depends on the memory and the step index alone. -/
theorem byteAt_congr {s t : State} (hm : t.mem = s.mem) (ht : t.tick = s.tick) (k : AccessKind) (a : Word) :
    byteAt t k a = byteAt s k a := by
  unfold byteAt; rw [hm, ht]

/-- A store leaves the byte at every other address as it was. -/
theorem byteAt_storeByte_ne (s : State) {a b : Word} (v : Byte) (k : AccessKind) (h : b ≠ a) :
    byteAt (s.storeByte a v) k b = byteAt s k b := by
  have h' : b.toNat ≠ a.toNat := fun e => h (BitVec.eq_of_toNat_eq e)
  unfold byteAt
  rw [State.storeByte_mem, State.storeByte_tick, Memory.get_store_ne _ _ _ h']

/-- The byte just stored is read back, but for an attribute byte. -/
theorem byteAt_storeByte_self (s : State) (a : Word) (v : Byte) (k : AccessKind) (h : regionOf a.toNat ≠ .attrib) :
    byteAt (s.storeByte a v) k a = .ok v := by
  unfold byteAt
  rw [State.storeByte_mem, Memory.get_store]
  cases hr : regionOf a.toNat <;> simp_all

/-- A word store leaves every byte outside its two as it was. -/
theorem byteAt_storeWord_ne (s : State) {a b : Word} (v : Word) (k : AccessKind) (h0 : b ≠ a) (h1 : b ≠ a + 1#16) :
    byteAt (s.storeWord a v) k b = byteAt s k b := by
  unfold State.storeWord
  rw [byteAt_storeByte_ne _ _ _ h1, byteAt_storeByte_ne _ _ _ h0]

/-- A byte read that answers passed the protection check. -/
theorem readByte_eq_ok {s : State} {k : AccessKind} {a : Word} {b : Byte} (h : readByte s k a = .ok b) :
    denied s k a = false ∧ byteAt s k a = .ok b := by
  unfold readByte at h
  split at h
  · cases h
  · next hd => exact ⟨by simpa using hd, h⟩

/-- A word read that answers is aligned, allowed, and made of its two bytes, high byte first. -/
theorem readWord_eq_ok {s : State} {k : AccessKind} {a v : Word} (h : readWord s k a = .ok v) :
    isOdd a = false ∧ denied s k a = false ∧ denied s k (a + 1#16) = false ∧
      ∃ hi lo, byteAt s k a = .ok hi ∧ byteAt s k (a + 1#16) = .ok lo ∧ v = wordOfBytes hi lo := by
  unfold readWord at h
  split at h
  · cases h
  · next ho =>
    split at h
    · cases h
    · next hd =>
      obtain ⟨hi, hhi, h2⟩ := Res.bind_eq_ok.1 h
      obtain ⟨lo, hlo, rfl⟩ := Res.map_eq_ok.1 h2
      rw [Bool.or_eq_true, not_or] at hd
      exact ⟨by simpa using ho, by simpa using hd.1, by simpa using hd.2, hi, lo, hhi, hlo, rfl⟩

/-- A byte write that answers was allowed, did not reach ROM, and is one store. -/
theorem writeByte_eq_ok {s t : State} {k : AccessKind} {a : Word} {v : Byte} (h : writeByte s k a v = .ok t) :
    denied s k a = false ∧ regionOf a.toNat ≠ .rom ∧ t = s.storeByte a v := by
  unfold writeByte at h
  split at h
  · cases h
  · next hd =>
    split at h
    · cases h
    · next hr =>
      injection h with h
      exact ⟨by simpa using hd, hr, h.symm⟩

/-- A word write that answers was aligned and allowed, did not reach ROM, and is one store. -/
theorem writeWord_eq_ok {s t : State} {k : AccessKind} {a v : Word} (h : writeWord s k a v = .ok t) :
    isOdd a = false ∧ denied s k a = false ∧ denied s k (a + 1#16) = false ∧ regionOf a.toNat ≠ .rom ∧
      t = s.storeWord a v := by
  unfold writeWord at h
  split at h
  · cases h
  · next ho =>
    split at h
    · cases h
    · next hd =>
      split at h
      · cases h
      · next hr =>
        injection h with h
        rw [Bool.or_eq_true, not_or] at hd
        exact ⟨by simpa using ho, by simpa using hd.1, by simpa using hd.2, hr, h.symm⟩

/-- With P = 1 the recommended MEM_PROTECT denies no access (20_memory.md R69). -/
theorem denied_privileged {s : State} (hr : s.params.memProtect = .recommended) (h : s.flag.p = true) (k : AccessKind) (a : Word) : denied s k a = false := by
  simp [denied, memProtect, hr, h]

/-! ### The stack, traps and returns -/

/-- A push that answers stored the word below SP and moved SP there. -/
theorem push_eq_ok {s t : State} {v : Word} (h : push s v = .ok t) :
    isOdd (s.sp - 2#16) = false ∧ denied s .stack (s.sp - 2#16) = false ∧ denied s .stack (s.sp - 2#16 + 1#16) = false ∧
      regionOf (s.sp - 2#16).toNat ≠ .rom ∧ t = (s.storeWord (s.sp - 2#16) v).setSp (s.sp - 2#16) := by
  obtain ⟨u, hu, rfl⟩ := Res.map_eq_ok.1 h
  obtain ⟨h1, h2, h3, h4, rfl⟩ := writeWord_eq_ok hu
  exact ⟨h1, h2, h3, h4, rfl⟩

/-- A pop that answers read the word at SP and moved SP above it. -/
theorem pop_eq_ok {s : State} {r : Word × State} (h : pop s = .ok r) :
    readWord s .stack s.sp = .ok r.1 ∧ r.2 = s.setSp (s.sp + 2#16) := by
  obtain ⟨v, hv, rfl⟩ := Res.map_eq_ok.1 h
  exact ⟨hv, rfl⟩

/-- What the steps of trap entry do when they answer (60_exceptions.md R211). -/
theorem trapSteps_eq_ok {n : Fin 16} {spc : Word} {s t : State} (h : trapSteps n spc s = .ok t) :
    ∃ s1 s2 handler, push (s.setFlag (trapFlags s.flag)) spc = .ok s1 ∧ push s1 s.flag.toWord = .ok s2 ∧
      readWord s2 .vector (vectorAddr n) = .ok handler ∧ t = s2.setPc handler := by
  obtain ⟨s1, h1, h⟩ := Res.bind_eq_ok.1 h
  obtain ⟨s2, h2, h⟩ := Res.bind_eq_ok.1 h
  obtain ⟨v, hv, rfl⟩ := Res.map_eq_ok.1 h
  exact ⟨s1, s2, v, h1, h2, hv, rfl⟩

/-- Trap entry answers a next state exactly when its steps do. -/
theorem trapEntry_eq_next {n : Fin 16} {spc : Word} {s t : State} :
    trapEntry n spc s = .next t ↔ trapSteps n spc s = .ok t := by
  unfold trapEntry
  cases h : trapSteps n spc s <;> simp

/-- Trap entry, when it answers: privileged, interrupts off, two words on the system stack, everything else but memory and PC as
it was (60_exceptions.md R211). -/
theorem trapEntry_next {n : Fin 16} {spc : Word} {s t : State} (h : trapEntry n spc s = .next t) :
    t.gr = s.gr ∧ t.usp = s.usp ∧ t.ssp = s.ssp - 2#16 - 2#16 ∧ t.flag = trapFlags s.flag ∧ t.halted = s.halted ∧
      t.irq = s.irq ∧ t.lowerLimit = s.lowerLimit ∧ t.upperLimit = s.upperLimit ∧ t.ioLog = s.ioLog ∧ t.tick = s.tick ∧
      t.params = s.params ∧ regionOf (s.ssp - 2#16).toNat ≠ .rom ∧ regionOf (s.ssp - 2#16 - 2#16).toNat ≠ .rom ∧
      isOdd (s.ssp - 2#16) = false ∧ isOdd (s.ssp - 2#16 - 2#16) = false ∧
      t.mem = ((s.storeWord (s.ssp - 2#16) spc).storeWord (s.ssp - 2#16 - 2#16) s.flag.toWord).mem := by
  obtain ⟨s1, s2, v, h1, h2, -, rfl⟩ := trapSteps_eq_ok (trapEntry_eq_next.1 h)
  have hp : (trapFlags s.flag).p = true := rfl
  have hsp : (s.setFlag (trapFlags s.flag)).sp = s.ssp := by simp [State.sp, hp]
  obtain ⟨o1, -, -, r1, rfl⟩ := push_eq_ok h1
  obtain ⟨o2, -, -, r2, rfl⟩ := push_eq_ok h2
  rw [hsp] at o1 r1 o2 r2 ⊢
  rw [State.sp_setSp] at o2 r2 ⊢
  exact ⟨by simp, by simp [hp], by simp [hp], by simp, by simp, by simp, by simp, by simp, by simp, by simp, by simp,
    r1, r2, o1, o2,
    by simp⟩

/-- What a return does when it answers (46_stack_return.md R189). -/
theorem trapReturn_eq_ok {s t : State} (h : trapReturn s = .ok t) :
    ∃ f pc, readWord s .stack s.sp = .ok f ∧ readWord s .stack (s.sp + 2#16) = .ok pc ∧
      t = ((s.setSp (s.sp + 4#16)).setFlag (retiFlags s.params.userRetiMask s.flag f)).setPc pc := by
  obtain ⟨f, hf, h⟩ := Res.bind_eq_ok.1 h
  obtain ⟨v, hv, rfl⟩ := Res.map_eq_ok.1 h
  exact ⟨f, v, hf, hv, rfl⟩

/-! ### The frame of an instruction -/

/-- When an instruction answers a next state, it was allowed and its effect answered it, or an exception was taken. -/
theorem perform_next {i : Instr} {s t : State} {effect : Res State} (h : perform i s effect = .next t) :
    (privAllowed i s = true ∧ effect = .ok t) ∨
      ∃ e, takeExc e (some (nextPc i s)) s = .next t ∧
        ((privAllowed i s = true ∧ effect = .raise e) ∨ (privAllowed i s = false ∧ e = .privilegeViolation)) := by
  unfold perform conclude at h
  cases hp : privAllowed i s with
  | false => simp [hp, orStop] at h; exact .inr ⟨_, h, .inr ⟨rfl, rfl⟩⟩
  | true =>
    cases effect with
    | ok u => simp [hp, orStop] at h; exact .inl ⟨rfl, by rw [h]⟩
    | raise e => simp [hp, orStop] at h; exact .inr ⟨e, h, .inl ⟨rfl, rfl⟩⟩
    | fault f => simp [hp, orStop] at h
    | refused r => simp [hp, orStop] at h

/-- An instruction of a row that is never privileged is allowed in every state (41_arith_logic.md R131 (e), 42_mul_div.md R140 (d),
43_shift.md R150 (c), 44_jump_call.md R160 (g)). -/
theorem privAllowed_of_neverPrivileged {i : Instr} (h : neverPrivileged (instrName i) = true) (s : State) :
    privAllowed i s = true := by
  simp [privAllowed, inPrivSet, h]

/-- An allowed instruction whose effect answers, answers that state. -/
theorem perform_ok {i : Instr} {s t : State} (hp : privAllowed i s = true) : perform i s (.ok t) = .next t := by
  simp [perform, conclude, orStop, hp]

/-- An allowed instruction that goes on to the next one answers its effect's state with PC advanced. -/
theorem performSeq_ok {i : Instr} {s t : State} (hp : privAllowed i s = true) :
    performSeq i s (.ok t) = .next (t.setPc (nextPc i s)) := by
  simp [performSeq, perform_ok hp]

/-- When an instruction that goes on to the next one answers a next state, its effect answered and PC advanced, or an exception
was taken. -/
theorem performSeq_next {i : Instr} {s t : State} {effect : Res State} (h : performSeq i s effect = .next t) :
    (privAllowed i s = true ∧ ∃ u, effect = .ok u ∧ t = u.setPc (nextPc i s)) ∨
      ∃ e, takeExc e (some (nextPc i s)) s = .next t ∧
        ((privAllowed i s = true ∧ effect = .raise e) ∨ (privAllowed i s = false ∧ e = .privilegeViolation)) := by
  rcases perform_next h with ⟨hp, he⟩ | ⟨e, he, hc⟩
  · obtain ⟨u, hu, rfl⟩ := Res.map_eq_ok.1 he
    exact .inl ⟨hp, u, hu, rfl⟩
  · refine .inr ⟨e, he, hc.imp_left ?_⟩
    rintro ⟨hp, hr⟩
    refine ⟨hp, ?_⟩
    cases effect <;> simp_all

/-! ### Operands and effects -/

/-- The effect of a two-operand instruction, when it answers (41_arith_logic.md R131). -/
theorem aluEffect_eq_ok {rd : Reg} {ea : EA} {s t : State} {f : Word → Word → Word} {fl : Word → Word → Word → Flags}
    (h : aluEffect rd ea s f fl = .ok t) :
    ∃ a b u, readReg s rd = .ok a ∧ operand s ea = .ok b ∧ writeReg s rd (f a b) = .ok u ∧
      t = u.setFlag (fl a b (f a b)) := by
  obtain ⟨a, ha, h⟩ := Res.bind_eq_ok.1 h
  obtain ⟨b, hb, h⟩ := Res.bind_eq_ok.1 h
  obtain ⟨u, hu, rfl⟩ := Res.map_eq_ok.1 h
  exact ⟨a, b, u, ha, hb, hu, rfl⟩

/-- A store of ST, when it answers: one store of the mode's width at the effective address (40_no_load_store.md R124). -/
theorem storeMem_eq_ok {s t : State} {m : MemEA} {v : Word} (h : storeMem s m v = .ok t) :
    ∃ a, effAddr s m = .ok a ∧
      ((MemEA.isByte m = true ∧ writeByte s .write a (loByte v) = .ok t) ∨
        (MemEA.isByte m = false ∧ writeWord s .write a v = .ok t)) := by
  obtain ⟨a, ha, h⟩ := Res.bind_eq_ok.1 h
  refine ⟨a, ha, ?_⟩
  split at h
  · next hb => exact .inl ⟨hb, h⟩
  · next hb => exact .inr ⟨by simpa using hb, h⟩

/-- The check on an I/O address passes exactly on the addresses of the map, even ones for a 2-byte access (20_memory.md R66). -/
theorem ioCheck_eq_ok {w : IoWidth} {a : Word} :
    ioCheck w a = .ok () ↔ ioMapped a = true ∧ (w = .word → isOdd a = false) := by
  unfold ioCheck
  cases w <;> cases h1 : isOdd a <;> cases h2 : ioMapped a <;> simp

/-- An I/O read, when it answers: one event more in the history, nothing else changed (20_memory.md R58). -/
theorem ioRead_eq_ok {s : State} {w : IoWidth} {a : Word} {r : Word × State} (h : ioRead s w a = .ok r) :
    r.1 = ioValue s w a ∧ r.2 = s.logIo (.read a w (ioValue s w a)) := by
  obtain ⟨u, -, rfl⟩ := Res.map_eq_ok.1 h
  exact ⟨rfl, rfl⟩

/-- An I/O write, when it answers: one event more in the history, and the limit registers (60_exceptions.md R222, R228). -/
theorem ioWrite_eq_ok {s t : State} {w : IoWidth} {a v : Word} (h : ioWrite s w a v = .ok t) :
    ioCheck w a = .ok () ∧ ioHitsReadOnly w a = false ∧
      t = (ioLimits s w a v).logIo (.write a w (ioDelivered w a v)) := by
  obtain ⟨u, hu, h⟩ := Res.bind_eq_ok.1 h
  split at h
  · cases h
  · next hr =>
    injection h with h
    exact ⟨hu, by simpa using hr, h.symm⟩

/-- The limit registers are all that an I/O write changes beside the history. -/
theorem ioLimits_frame (s : State) (w : IoWidth) (a v : Word) :
    (ioLimits s w a v).gr = s.gr ∧ (ioLimits s w a v).ssp = s.ssp ∧ (ioLimits s w a v).usp = s.usp ∧
      (ioLimits s w a v).pc = s.pc ∧ (ioLimits s w a v).flag = s.flag ∧ (ioLimits s w a v).halted = s.halted ∧
      (ioLimits s w a v).irq = s.irq ∧ (ioLimits s w a v).mem = s.mem ∧ (ioLimits s w a v).ioLog = s.ioLog ∧
      (ioLimits s w a v).tick = s.tick ∧ (ioLimits s w a v).params = s.params := by
  unfold ioLimits
  cases w <;> simp only <;> split <;> (try split) <;> simp

/-- Setting the condition flags leaves E, P and I (41_arith_logic.md R130 (e)). -/
@[simp] theorem Flags.setCond_e (f : Flags) (v c s z : Bool) : (f.setCond v c s z).e = f.e := rfl
@[simp] theorem Flags.setCond_p (f : Flags) (v c s z : Bool) : (f.setCond v c s z).p = f.p := rfl
@[simp] theorem Flags.setCond_i (f : Flags) (v c s z : Bool) : (f.setCond v c s z).i = f.i := rfl
@[simp] theorem Flags.setCond_v (f : Flags) (v c s z : Bool) : (f.setCond v c s z).v = v := rfl
@[simp] theorem Flags.setCond_c (f : Flags) (v c s z : Bool) : (f.setCond v c s z).c = c := rfl
@[simp] theorem Flags.setCond_s (f : Flags) (v c s z : Bool) : (f.setCond v c s z).s = s := rfl
@[simp] theorem Flags.setCond_z (f : Flags) (v c s z : Bool) : (f.setCond v c s z).z = z := rfl

end Sys2Proof.Machine
end

