-- ==== Sys2Proof/Laws/Exec.lean ====
section
/-! SUPPORT. Laws/Exec.lean: what an instruction, and a step, can do when it answers a next state: the inversion lemmas that a
proof over all instructions cites in place of the meanings. They do not say the new PC. -/

namespace Sys2Proof.Machine

/-- FLAG after an instruction that is no RETI, EI or DI: as before, or V, C, S, Z changed where the flag column is a circle. -/
def CondFlagsOnly (i : Instr) (s : State) (f : Flags) : Prop :=
  (writesCond i = false ∧ f = s.flag) ∨ (writesCond i = true ∧ f.e = s.flag.e ∧ f.p = s.flag.p ∧ f.i = s.flag.i)

/-- Everything a completed instruction can do, but for the value of the new PC. -/
inductive Effect (i : Instr) (s t : State) : Prop
  /-- trap entry -/
  | trap (n : Fin 16) (spc : Word) (h : trapEntry n spc s = .next t)
  /-- one register, and condition flags -/
  | reg (u : State) (rd : Reg) (v : Word) (f : Flags) (pc : Word) (hw : writeReg s rd v = .ok u)
      (ht : t = (u.setFlag f).setPc pc) (hf : CondFlagsOnly i s f) (hn : i ≠ .reti)
  /-- a register pair, and condition flags -/
  | pair (u u' : State) (rd rd' : Reg) (v v' : Word) (f : Flags) (pc : Word) (hw : writeReg s rd v = .ok u)
      (hw' : writeReg u rd' v' = .ok u') (ht : t = (u'.setFlag f).setPc pc)
      (hf : writesCond i = true ∧ f.e = s.flag.e ∧ f.p = s.flag.p ∧ f.i = s.flag.i)
  /-- condition flags and PC only -/
  | plain (f : Flags) (pc : Word) (ht : t = (s.setFlag f).setPc pc) (hf : CondFlagsOnly i s f) (hn : i ≠ .reti)
  /-- EI or DI, where it is allowed -/
  | enable (e : Bool) (pc : Word) (hp : privAllowed i s = true) (ht : t = (s.setFlag { s.flag with e := e }).setPc pc)
      (hi : i = .ei ∨ i = .di)
  /-- HALT, where it is allowed -/
  | halt (hp : privAllowed i s = true) (ht : t = s.setHalted.setPc (s.pc + 2#16)) (hi : i = .halt)
  /-- RETI -/
  | reti (hi : i = .reti) (f v : Word) (hf : readWord s .stack s.sp = .ok f) (hv : readWord s .stack (s.sp + 2#16) = .ok v)
      (ht : t = ((s.setSp (s.sp + 4#16)).setFlag (retiFlags s.params.userRetiMask s.flag f)).setPc v)
  /-- POP or RET: the stack pointer, then perhaps one register -/
  | pop (sp' : Word) (rd : Option Reg) (v : Word) (u : State) (pc : Word)
      (hw : rd = none ∧ u = s.setSp sp' ∨ ∃ r, rd = some r ∧ writeReg (s.setSp sp') r v = .ok u) (ht : t = u.setPc pc)
      (hc : writesCond i = false) (hn : i ≠ .reti)
  /-- PUSH or CALL -/
  | push (v : Word) (pc : Word) (hw : WordWritable s .stack (s.sp - 2#16))
      (ht : t = ((s.storeWord (s.sp - 2#16) v).setSp (s.sp - 2#16)).setPc pc)
      (hi : (∃ rd, i = .push rd) ∨ ∃ ea, i = .call ea)
  /-- ST of a word -/
  | storeWord (a v : Word) (pc : Word) (hw : WordWritable s .write a) (ht : t = (s.storeWord a v).setPc pc)
      (hi : ∃ rd m, i = .st rd m)
  /-- ST of a byte -/
  | storeByte (a : Word) (v : Byte) (pc : Word) (hw : denied s .write a = false) (hr : regionOf a.toNat ≠ .rom)
      (ht : t = (s.storeByte a v).setPc pc) (hi : ∃ rd m, i = .st rd m)
  /-- IN, where it is allowed -/
  | inp (rd : Reg) (ea : PortEA) (e : IoEvent) (v : Word) (u : State) (pc : Word) (hi : i = .inp rd ea)
      (hp : privAllowed i s = true) (hw : writeReg (s.logIo e) rd v = .ok u) (ht : t = u.setPc pc)
  /-- OUT, where it is allowed -/
  | outp (rd : Reg) (ea : PortEA) (e : IoEvent) (w : IoWidth) (a v : Word) (pc : Word) (hi : i = .outp rd ea)
      (hp : privAllowed i s = true) (ht : t = ((ioLimits s w a v).logIo e).setPc pc)

/-- The effect of an instruction that sets PC itself. -/
theorem perform_effect {i : Instr} {s t : State} {e : Res State} (h : perform i s e = .next t)
    (k : ∀ u, privAllowed i s = true → e = .ok u → Effect i s u) : Effect i s t := by
  rcases perform_next h with ⟨hp, hu⟩ | ⟨_, he, -⟩
  · exact k t hp hu
  · exact .trap _ _ he

/-- The effect of an instruction that goes on to the next one. -/
theorem performSeq_effect {i : Instr} {s t : State} {e : Res State} (h : performSeq i s e = .next t)
    (k : ∀ u, privAllowed i s = true → e = .ok u → Effect i s (u.setPc (nextPc i s))) : Effect i s t := by
  rcases performSeq_next h with ⟨hp, u, hu, rfl⟩ | ⟨_, he, -⟩
  · exact k u hp hu
  · exact .trap _ _ he

/-- Two-operand instructions with one result. -/
theorem aluEffect_effect {i : Instr} {rd : Reg} {ea : EA} {s t : State} {f : Word → Word → Word}
    {fl : Word → Word → Word → Flags} (h : performSeq i s (aluEffect rd ea s f fl) = .next t)
    (hc : writesCond i = true) (hn : i ≠ .reti)
    (hfl : ∀ a b r, (fl a b r).e = s.flag.e ∧ (fl a b r).p = s.flag.p ∧ (fl a b r).i = s.flag.i) : Effect i s t :=
  performSeq_effect h fun u _ hu => by
    obtain ⟨a, b, w, -, -, hw, rfl⟩ := aluEffect_eq_ok hu
    exact .reg w rd _ _ _ hw rfl (.inr ⟨hc, hfl _ _ _⟩) hn

/-- DIV and MOD. -/
theorem divEffect_effect {i : Instr} {rd : Reg} {ea : EA} {s t : State} {f : Word → Word → Word}
    (h : performSeq i s (divEffect rd ea s f) = .next t) (hc : writesCond i = true) (hn : i ≠ .reti) : Effect i s t :=
  performSeq_effect h fun u _ hu => by
    obtain ⟨a, -, hu⟩ := Res.bind_eq_ok.1 hu
    obtain ⟨b, -, hu⟩ := Res.bind_eq_ok.1 hu
    split at hu
    · cases hu
    · obtain ⟨w, hw, rfl⟩ := Res.map_eq_ok.1 hu
      exact .reg w rd _ _ _ hw rfl (.inr ⟨hc, rfl, rfl, rfl⟩) hn

/-- The jumps. -/
theorem jumpEffect_effect {i : Instr} {ea : JumpEA} {s t : State} {c : Bool}
    (h : perform i s (jumpEffect i ea s c) = .next t) (hc : writesCond i = false) (hn : i ≠ .reti) : Effect i s t :=
  perform_effect h fun u _ hu => by
    obtain ⟨a, -, rfl⟩ := Res.map_eq_ok.1 hu
    exact .plain s.flag _ rfl (.inl ⟨hc, rfl⟩) hn

/-- The write of a register pair. -/
theorem writePair_effect {i : Instr} {s u : State} {rd hi : Reg} {low high pc : Word}
    (h : writePair s rd hi low high = .ok u) (hc : writesCond i = true) : Effect i s (u.setPc pc) := by
  obtain ⟨v, hv, hu⟩ := Res.bind_eq_ok.1 h
  obtain ⟨w, hw, rfl⟩ := Res.map_eq_ok.1 hu
  exact .pair v w rd hi _ _ _ _ hv hw rfl ⟨hc, rfl, rfl, rfl⟩

/-- With P = 1 every instruction is allowed (60_exceptions.md R216). -/
theorem privAllowed_of_privileged {i : Instr} {s : State} (h : s.flag.p = true) : privAllowed i s = true := by
  simp [privAllowed, h]

/-- The check of an access in a state with P = 1 and the parameters and limits of `s` is that of trap entry in `s`. -/
theorem denied_system {u s : State} (hp : u.flag.p = true) (hm : u.params = s.params) (hl : u.lowerLimit = s.lowerLimit)
    (hu : u.upperLimit = s.upperLimit) (k : AccessKind) (a : Word) :
    denied u k a = memProtect s.params.memProtect true k a s.lowerLimit s.upperLimit := by
  rw [denied, hp, hm, hl, hu]

/-- Trap entry, when it answers, was allowed its accesses (60_exceptions.md R211, R214). -/
theorem trapEntry_allowed {n : Fin 16} {spc : Word} {s t : State} (h : trapEntry n spc s = .next t) :
    SystemAllowed s .stack (s.ssp - 2#16) ∧ SystemAllowed s .stack (s.ssp - 2#16 - 2#16) ∧
      SystemAllowed s .vector (vectorAddr n) := by
  obtain ⟨s1, s2, v, h1, h2, h3, -⟩ := trapSteps_eq_ok (trapEntry_eq_next.1 h)
  have hp : (trapFlags s.flag).p = true := rfl
  have hsp : (s.setFlag (trapFlags s.flag)).sp = s.ssp := by simp [State.sp, hp]
  obtain ⟨-, a1, a2, -, rfl⟩ := push_eq_ok h1
  obtain ⟨-, b1, b2, -, rfl⟩ := push_eq_ok h2
  obtain ⟨-, c1, c2, -⟩ := readWord_eq_ok h3
  rw [State.sp_setSp, hsp] at b1 b2
  rw [hsp] at a1 a2
  rw [denied_system (s := s) (by simp [hp]) (by simp) (by simp) (by simp)] at a1 a2 b1 b2 c1 c2
  exact ⟨⟨a1, a2⟩, ⟨b1, b2⟩, ⟨c1, c2⟩⟩

/-- A privileged instruction that is no port instruction runs with P = 1 only (60_exceptions.md R216). -/
theorem privAllowed_privileged {i : Instr} {s : State} (h : privAllowed i s = true) (hs : inPrivSet s.params i = true)
    (hp : isPortInstr i = false) : s.flag.p = true := by
  simpa [privAllowed, hs, hp] using h

/-- A privileged instruction runs with P = 1 or I = 1 (60_exceptions.md R216, R217). -/
theorem privAllowed_port {i : Instr} {s : State} (h : privAllowed i s = true) (hs : inPrivSet s.params i = true) :
    s.flag.p = true ∨ s.flag.i = true := by
  simp only [privAllowed, hs, Bool.not_true, Bool.false_or, Bool.or_eq_true, Bool.and_eq_true] at h
  exact h.imp_right And.right

/-- What an instruction can do when it completes. -/
theorem exec_effect {i : Instr} {s t : State} (h : exec i s = .next t) : Effect i s t := by
  cases i with
  | no =>
    exact performSeq_effect (show performSeq .no s (.ok s) = .next t from h) fun u _ hu => by
      cases hu; exact .plain s.flag _ rfl (.inl ⟨rfl, rfl⟩) (by simp)
  | ld rd ea =>
    refine performSeq_effect h fun u _ hu => ?_
    obtain ⟨b, -, hw⟩ := Res.bind_eq_ok.1 hu
    exact .reg u rd b u.flag _ hw rfl (.inl ⟨rfl, (writeReg_frame hw).2.1⟩) (by simp)
  | ldFlag rd =>
    exact performSeq_effect h fun u _ hu => .reg u rd _ u.flag _ hu rfl (.inl ⟨rfl, (writeReg_frame hu).2.1⟩) (by simp)
  | st rd m =>
    refine performSeq_effect h fun u _ hu => ?_
    obtain ⟨v, -, hw⟩ := Res.bind_eq_ok.1 hu
    obtain ⟨a, -, ⟨-, hw⟩ | ⟨-, hw⟩⟩ := storeMem_eq_ok hw
    · obtain ⟨h1, h2, rfl⟩ := writeByte_eq_ok hw
      exact .storeByte a _ _ h1 h2 rfl ⟨_, _, rfl⟩
    · obtain ⟨h1, h2, h3, h4, rfl⟩ := writeWord_eq_ok hw
      exact .storeWord a _ _ ⟨⟨h1, h2, h3⟩, h4⟩ rfl ⟨_, _, rfl⟩
  | cmp rd ea =>
    refine performSeq_effect h fun u _ hu => ?_
    obtain ⟨a, -, hu⟩ := Res.bind_eq_ok.1 hu
    obtain ⟨b, -, rfl⟩ := Res.map_eq_ok.1 hu
    exact .plain _ _ rfl (.inr ⟨rfl, rfl, rfl, rfl⟩) (by simp)
  | add rd ea => exact aluEffect_effect h rfl (by simp) fun _ _ _ => ⟨rfl, rfl, rfl⟩
  | sub rd ea => exact aluEffect_effect h rfl (by simp) fun _ _ _ => ⟨rfl, rfl, rfl⟩
  | and rd ea => exact aluEffect_effect h rfl (by simp) fun _ _ _ => ⟨rfl, rfl, rfl⟩
  | or rd ea => exact aluEffect_effect h rfl (by simp) fun _ _ _ => ⟨rfl, rfl, rfl⟩
  | xor rd ea => exact aluEffect_effect h rfl (by simp) fun _ _ _ => ⟨rfl, rfl, rfl⟩
  | adds rd ea => exact aluEffect_effect h rfl (by simp) fun _ _ _ => ⟨rfl, rfl, rfl⟩
  | mul rd ea => exact aluEffect_effect h rfl (by simp) fun _ _ _ => ⟨rfl, rfl, rfl⟩
  | shla rd ea => exact aluEffect_effect h rfl (by simp) fun _ _ _ => ⟨rfl, rfl, rfl⟩
  | shll rd ea => exact aluEffect_effect h rfl (by simp) fun _ _ _ => ⟨rfl, rfl, rfl⟩
  | shra rd ea => exact aluEffect_effect h rfl (by simp) fun _ _ _ => ⟨rfl, rfl, rfl⟩
  | shrl rd ea => exact aluEffect_effect h rfl (by simp) fun _ _ _ => ⟨rfl, rfl, rfl⟩
  | div rd ea => exact divEffect_effect h rfl (by simp)
  | mod rd ea => exact divEffect_effect h rfl (by simp)
  | mull rd ea =>
    refine performSeq_effect h fun u _ hu => ?_
    obtain ⟨hi, -, hu⟩ := Res.bind_eq_ok.1 hu
    obtain ⟨a, -, hu⟩ := Res.bind_eq_ok.1 hu
    obtain ⟨b, -, hu⟩ := Res.bind_eq_ok.1 hu
    exact writePair_effect hu rfl
  | divl rd ea =>
    refine performSeq_effect h fun u _ hu => ?_
    obtain ⟨hi, -, hu⟩ := Res.bind_eq_ok.1 hu
    obtain ⟨a, -, hu⟩ := Res.bind_eq_ok.1 hu
    obtain ⟨a', -, hu⟩ := Res.bind_eq_ok.1 hu
    obtain ⟨b, -, hu⟩ := Res.bind_eq_ok.1 hu
    split at hu
    · cases hu
    · exact writePair_effect hu rfl
  | jz ea => exact jumpEffect_effect h rfl (by simp)
  | jc ea => exact jumpEffect_effect h rfl (by simp)
  | jm ea => exact jumpEffect_effect h rfl (by simp)
  | jo ea => exact jumpEffect_effect h rfl (by simp)
  | jgt ea => exact jumpEffect_effect h rfl (by simp)
  | jge ea => exact jumpEffect_effect h rfl (by simp)
  | jle ea => exact jumpEffect_effect h rfl (by simp)
  | jlt ea => exact jumpEffect_effect h rfl (by simp)
  | jnz ea => exact jumpEffect_effect h rfl (by simp)
  | jnc ea => exact jumpEffect_effect h rfl (by simp)
  | jnm ea => exact jumpEffect_effect h rfl (by simp)
  | jno ea => exact jumpEffect_effect h rfl (by simp)
  | jhi ea => exact jumpEffect_effect h rfl (by simp)
  | jls ea => exact jumpEffect_effect h rfl (by simp)
  | jmp ea => exact jumpEffect_effect h rfl (by simp)
  | call ea =>
    refine perform_effect h fun u _ hu => ?_
    obtain ⟨a, -, hu⟩ := Res.bind_eq_ok.1 hu
    obtain ⟨v, hv, rfl⟩ := Res.map_eq_ok.1 hu
    obtain ⟨h1, h2, h3, h4, rfl⟩ := push_eq_ok hv
    exact .push _ _ ⟨⟨h1, h2, h3⟩, h4⟩ rfl (.inr ⟨_, rfl⟩)
  | inp rd ea =>
    refine performSeq_effect h fun u hp hu => ?_
    obtain ⟨a, -, hu⟩ := Res.bind_eq_ok.1 hu
    obtain ⟨r, hr, hu⟩ := Res.bind_eq_ok.1 hu
    rw [(ioRead_eq_ok hr).2] at hu
    exact .inp rd ea _ _ u _ rfl hp hu rfl
  | outp rd ea =>
    refine performSeq_effect h fun u hp hu => ?_
    obtain ⟨a, -, hu⟩ := Res.bind_eq_ok.1 hu
    obtain ⟨r, -, hu⟩ := Res.bind_eq_ok.1 hu
    obtain ⟨-, -, rfl⟩ := ioWrite_eq_ok hu
    exact .outp rd ea _ _ _ _ _ rfl hp rfl
  | push rd =>
    refine performSeq_effect h fun u _ hu => ?_
    obtain ⟨a, -, hu⟩ := Res.bind_eq_ok.1 hu
    obtain ⟨h1, h2, h3, h4, rfl⟩ := push_eq_ok hu
    exact .push _ _ ⟨⟨h1, h2, h3⟩, h4⟩ rfl (.inl ⟨_, rfl⟩)
  | pop rd =>
    refine performSeq_effect h fun u _ hu => ?_
    obtain ⟨r, hr, hu⟩ := Res.bind_eq_ok.1 hu
    rw [(pop_eq_ok hr).2] at hu
    exact .pop _ (some rd) r.1 u _ (.inr ⟨rd, rfl, hu⟩) rfl rfl (by simp)
  | ret =>
    refine perform_effect h fun u _ hu => ?_
    obtain ⟨r, hr, rfl⟩ := Res.map_eq_ok.1 hu
    rw [(pop_eq_ok hr).2]
    exact .pop _ none 0 _ _ (.inl ⟨rfl, rfl⟩) rfl rfl (by simp)
  | reti =>
    refine perform_effect h fun u _ hu => ?_
    obtain ⟨f, v, h1, h2, rfl⟩ := trapReturn_eq_ok hu
    exact .reti rfl f v h1 h2 rfl
  | ei =>
    exact performSeq_effect h fun u hp hu => by
      cases hu; exact .enable true _ hp rfl (.inl rfl)
  | di =>
    exact performSeq_effect h fun u hp hu => by
      cases hu; exact .enable false _ hp rfl (.inr rfl)
  | svc => exact perform_effect (show perform .svc s (.raise .svc) = .next t from h) fun u _ hu => by cases hu
  | halt =>
    exact performSeq_effect h fun u hp hu => by
      cases hu; exact .halt hp rfl rfl

/-- The outcome of a step is the CPU's part and the devices' move. -/
theorem settle_next {o : Host.Outcome State Fault Refusal} {t : State} :
    settle o = .next t ↔ ∃ u, o = .next u ∧ t = endStep u := by
  cases o <;> simp [settle, eq_comm]

/-- A stop of an operation that ends in a next state is trap entry. -/
theorem orStop_error_next {α : Type} {s t : State} {npc : Option Word} {x : Res α}
    (h : orStop s npc x = .error (.next t)) : ∃ n spc, trapEntry n spc s = .next t := by
  cases x <;> simp [orStop] at h
  exact ⟨_, _, h⟩

/-- A fetch that ends in a next state is trap entry. -/
theorem fetch_error_next {s t : State} (h : fetch s = .error (.next t)) : ∃ n spc, trapEntry n spc s = .next t := by
  have bind_error {α : Type} {x : Except (Host.Outcome State Fault Refusal) α} {k : α → Except _ Instr}
      (h : x.bind k = .error (.next t)) : x = .error (.next t) ∨ ∃ a, k a = .error (.next t) := by
    cases x with
    | error e => exact .inl (by simpa [Except.bind] using h)
    | ok a => exact .inr ⟨a, h⟩
  rcases bind_error h with h | ⟨w1, h⟩
  · exact orStop_error_next h
  · split at h
    · injection h with h; exact ⟨_, _, h⟩
    · exact orStop_error_next h
    · rcases bind_error h with h | ⟨w2, h⟩
      · exact orStop_error_next h
      · exact orStop_error_next h

/-- What a step can do when it answers a next state: trap entry, or one fetched instruction; then the devices' move. -/
theorem step_next {s t : State} (h : step s = .next t) :
    s.halted = false ∧ ∃ u, t = endStep u ∧ ((∃ n spc, trapEntry n spc s = .next u) ∨
      (pendingInterrupt s = none ∧ ∃ i, fetch s = .ok i ∧ exec i s = .next u)) := by
  unfold step at h
  split at h
  · cases h
  · rename_i hh
    obtain ⟨u, hu, rfl⟩ := settle_next.1 h
    refine ⟨by simpa using hh, u, rfl, ?_⟩
    unfold cpuStep at hu
    split at hu
    · exact .inl ⟨_, _, hu⟩
    · rename_i hp
      split at hu
      · rename_i i hi
        exact .inr ⟨hp, i, hi, hu⟩
      · rename_i o ho
        subst hu
        exact .inl (fetch_error_next ho)

end Sys2Proof.Machine
end

