-- ==== Sys2Proof/Laws/PerInstr.lean ====
section
/-! SUPPORT. Laws/PerInstr.lean: the family EncodedLength, a fact of every instruction as syntax: its encoding has as many bytes
as its length says (30_encoding.md R99). One lemma per constructor of Instr. -/

namespace Sys2Proof.Laws.EncodedLength

/-- The encoding of the instruction has the length by which PC advances. -/
def Statement (i : Instr) : Prop := (encodeBytes i).length = i.byteLen

theorem no : Statement (.no) := rfl
theorem ld (rd : Reg) (ea : EA) : Statement (.ld rd ea) := by
  cases ea with
  | mem m => cases m <;> rfl
  | imm w => rfl
  | reg rs => rfl
  | imm4 i4 => rfl
theorem st (rd : Reg) (ea : MemEA) : Statement (.st rd ea) := by cases ea <;> rfl
theorem ldFlag (rd : Reg) : Statement (.ldFlag rd) := rfl
theorem add (rd : Reg) (ea : EA) : Statement (.add rd ea) := by
  cases ea with
  | mem m => cases m <;> rfl
  | imm w => rfl
  | reg rs => rfl
  | imm4 i4 => rfl
theorem sub (rd : Reg) (ea : EA) : Statement (.sub rd ea) := by
  cases ea with
  | mem m => cases m <;> rfl
  | imm w => rfl
  | reg rs => rfl
  | imm4 i4 => rfl
theorem cmp (rd : Reg) (ea : EA) : Statement (.cmp rd ea) := by
  cases ea with
  | mem m => cases m <;> rfl
  | imm w => rfl
  | reg rs => rfl
  | imm4 i4 => rfl
theorem and (rd : Reg) (ea : EA) : Statement (.and rd ea) := by
  cases ea with
  | mem m => cases m <;> rfl
  | imm w => rfl
  | reg rs => rfl
  | imm4 i4 => rfl
theorem or (rd : Reg) (ea : EA) : Statement (.or rd ea) := by
  cases ea with
  | mem m => cases m <;> rfl
  | imm w => rfl
  | reg rs => rfl
  | imm4 i4 => rfl
theorem xor (rd : Reg) (ea : EA) : Statement (.xor rd ea) := by
  cases ea with
  | mem m => cases m <;> rfl
  | imm w => rfl
  | reg rs => rfl
  | imm4 i4 => rfl
theorem adds (rd : Reg) (ea : EA) : Statement (.adds rd ea) := by
  cases ea with
  | mem m => cases m <;> rfl
  | imm w => rfl
  | reg rs => rfl
  | imm4 i4 => rfl
theorem mul (rd : Reg) (ea : EA) : Statement (.mul rd ea) := by
  cases ea with
  | mem m => cases m <;> rfl
  | imm w => rfl
  | reg rs => rfl
  | imm4 i4 => rfl
theorem div (rd : Reg) (ea : EA) : Statement (.div rd ea) := by
  cases ea with
  | mem m => cases m <;> rfl
  | imm w => rfl
  | reg rs => rfl
  | imm4 i4 => rfl
theorem mod (rd : Reg) (ea : EA) : Statement (.mod rd ea) := by
  cases ea with
  | mem m => cases m <;> rfl
  | imm w => rfl
  | reg rs => rfl
  | imm4 i4 => rfl
theorem mull (rd : Reg) (ea : EA) : Statement (.mull rd ea) := by
  cases ea with
  | mem m => cases m <;> rfl
  | imm w => rfl
  | reg rs => rfl
  | imm4 i4 => rfl
theorem divl (rd : Reg) (ea : EA) : Statement (.divl rd ea) := by
  cases ea with
  | mem m => cases m <;> rfl
  | imm w => rfl
  | reg rs => rfl
  | imm4 i4 => rfl
theorem shla (rd : Reg) (ea : EA) : Statement (.shla rd ea) := by
  cases ea with
  | mem m => cases m <;> rfl
  | imm w => rfl
  | reg rs => rfl
  | imm4 i4 => rfl
theorem shll (rd : Reg) (ea : EA) : Statement (.shll rd ea) := by
  cases ea with
  | mem m => cases m <;> rfl
  | imm w => rfl
  | reg rs => rfl
  | imm4 i4 => rfl
theorem shra (rd : Reg) (ea : EA) : Statement (.shra rd ea) := by
  cases ea with
  | mem m => cases m <;> rfl
  | imm w => rfl
  | reg rs => rfl
  | imm4 i4 => rfl
theorem shrl (rd : Reg) (ea : EA) : Statement (.shrl rd ea) := by
  cases ea with
  | mem m => cases m <;> rfl
  | imm w => rfl
  | reg rs => rfl
  | imm4 i4 => rfl
theorem jz (ea : JumpEA) : Statement (.jz ea) := by cases ea <;> rfl
theorem jc (ea : JumpEA) : Statement (.jc ea) := by cases ea <;> rfl
theorem jm (ea : JumpEA) : Statement (.jm ea) := by cases ea <;> rfl
theorem jo (ea : JumpEA) : Statement (.jo ea) := by cases ea <;> rfl
theorem jgt (ea : JumpEA) : Statement (.jgt ea) := by cases ea <;> rfl
theorem jge (ea : JumpEA) : Statement (.jge ea) := by cases ea <;> rfl
theorem jle (ea : JumpEA) : Statement (.jle ea) := by cases ea <;> rfl
theorem jlt (ea : JumpEA) : Statement (.jlt ea) := by cases ea <;> rfl
theorem jnz (ea : JumpEA) : Statement (.jnz ea) := by cases ea <;> rfl
theorem jnc (ea : JumpEA) : Statement (.jnc ea) := by cases ea <;> rfl
theorem jnm (ea : JumpEA) : Statement (.jnm ea) := by cases ea <;> rfl
theorem jno (ea : JumpEA) : Statement (.jno ea) := by cases ea <;> rfl
theorem jhi (ea : JumpEA) : Statement (.jhi ea) := by cases ea <;> rfl
theorem jls (ea : JumpEA) : Statement (.jls ea) := by cases ea <;> rfl
theorem jmp (ea : JumpEA) : Statement (.jmp ea) := by cases ea <;> rfl
theorem call (ea : JumpEA) : Statement (.call ea) := by cases ea <;> rfl
theorem inp (rd : Reg) (ea : PortEA) : Statement (.inp rd ea) := by cases ea <;> rfl
theorem outp (rd : Reg) (ea : PortEA) : Statement (.outp rd ea) := by cases ea <;> rfl
theorem push (rd : Reg) : Statement (.push rd) := rfl
theorem pop (rd : Reg) : Statement (.pop rd) := rfl
theorem ret : Statement (.ret) := rfl
theorem reti : Statement (.reti) := rfl
theorem ei : Statement (.ei) := rfl
theorem di : Statement (.di) := rfl
theorem svc : Statement (.svc) := rfl
theorem halt : Statement (.halt) := rfl

end Sys2Proof.Laws.EncodedLength
end

