-- ==== Sys2Proof/Machine/Timing.lean ====
section
/-! DEFINITION. Machine/Timing.lean: the state counts of the instruction table (70_reset_and_hazards.md R248 to R250) as a cost
function. No step reads it: the counts change no architectural state (R248; log 29). -/

namespace Sys2Proof.Machine

/-- States of a memory mode, given the count of the Direct mode: Direct = Indexed = FP Relative, and one less for Register
Indirect and Byte Register Indirect (R250, R251). -/
def memStates (direct : Nat) (m : MemEA) : Nat :=
  match m with
  | .drct _ => direct
  | .idx _ _ => direct
  | .fp _ => direct
  | .indr _ => direct - 1
  | .bindr _ => direct - 1

/-- States of ADD by mode; the other two-operand rows but LD and ST differ from it by a constant (R250, R251). -/
def addStates (ea : EA) : Nat :=
  match ea with
  | .mem m => memStates 7 m
  | .imm _ => 5
  | .reg _ => 5
  | .imm4 _ => 4

/-- States of LD by mode (R250). -/
def ldStates (ea : EA) : Nat :=
  match ea with
  | .mem m => memStates 7 m
  | .imm _ => 5
  | .reg _ => 4
  | .imm4 _ => 4

/-- States of IN or OUT by mode, given the count of the Direct mode (R250). -/
def portStates (direct : Nat) (ea : PortEA) : Nat :=
  match ea with
  | .drct _ => direct
  | .indr _ => direct - 1
  | .bindr _ => direct - 1

/-- States of a shift: "8+n" and the like, n read as the shift count (R249). -/
def shiftStates (s : State) (ea : EA) : Res Nat :=
  (operand s ea).map fun b => addStates ea + 1 + b.toNat

/-- States of a conditional jump: 4 when not taken, 5 when taken (R249). -/
def condStates (taken : Bool) : Res Nat := .ok (if taken then 5 else 4)

/-- The state count of an instruction executed in a state (R250). -/
def stateCount (i : Instr) (s : State) : Res Nat :=
  match i with
  | .no => .ok 3
  | .ld _ ea => .ok (ldStates ea)
  | .st _ ea => .ok (memStates 6 ea)
  | .ldFlag _ => .ok 4
  | .add _ ea => .ok (addStates ea)
  | .sub _ ea => .ok (addStates ea)
  | .cmp _ ea => .ok (addStates ea)
  | .and _ ea => .ok (addStates ea)
  | .or _ ea => .ok (addStates ea)
  | .xor _ ea => .ok (addStates ea)
  | .adds _ ea => .ok (addStates ea + 1)
  | .mul _ ea => .ok (addStates ea + 50)
  | .div _ ea => .ok (addStates ea + 66)
  | .mod _ ea => .ok (addStates ea + 66)
  | .mull _ ea => .ok (addStates ea + 50)
  | .divl _ ea => .ok (addStates ea + 66)
  | .shla _ ea => shiftStates s ea
  | .shll _ ea => shiftStates s ea
  | .shra _ ea => shiftStates s ea
  | .shrl _ ea => shiftStates s ea
  | .jz _ => condStates (condJz s.flag)
  | .jc _ => condStates (condJc s.flag)
  | .jm _ => condStates (condJm s.flag)
  | .jo _ => condStates (condJo s.flag)
  | .jgt _ => condStates (condJgt s.flag)
  | .jge _ => condStates (condJge s.flag)
  | .jle _ => condStates (condJle s.flag)
  | .jlt _ => condStates (condJlt s.flag)
  | .jnz _ => condStates (condJnz s.flag)
  | .jnc _ => condStates (condJnc s.flag)
  | .jnm _ => condStates (condJnm s.flag)
  | .jno _ => condStates (condJno s.flag)
  | .jhi _ => condStates (condJhi s.flag)
  | .jls _ => condStates (condJls s.flag)
  | .jmp _ => .ok 5
  | .call _ => .ok 6
  | .inp _ ea => .ok (portStates 7 ea)
  | .outp _ ea => .ok (portStates 6 ea)
  | .push _ => .ok 5
  | .pop _ => .ok 6
  | .ret => .ok 6
  | .reti => .ok 9
  | .ei => .ok 5
  | .di => .ok 5
  | .svc => .ok 12
  | .halt => .ok 5

end Sys2Proof.Machine
end

