-- ==== Sys2Proof/Tests/Slice0.lean ====
section
/-! SUPPORT. Tests/Slice0.lean: the smoke tests of WellFormed, the decoding of words written out from 30_encoding.md, one-step
tests whose expected values are the vectors of 95_test_vectors.md (section and number in each comment), and a witness for the
hypotheses of every statement that has any. -/

namespace Sys2Proof.Tests

open Sys2Proof.Machine

/-! ### WellFormed refuses an ill-formed term, one per check -/

/-- 10_state.md R27: Rd = Fh. -/
theorem test_wf_rd_pc : (Instr.ld .pc (.imm 0#16)).wellFormed = false := by decide
/-- R27: Rs = Fh. -/
theorem test_wf_rs_pc : (Instr.add (.g 0) (.reg .pc)).wellFormed = false := by decide
/-- R27: Rx = Fh, Indexed. -/
theorem test_wf_idx_pc : (Instr.st (.g 0) (.idx 0#16 .pc)).wellFormed = false := by decide
/-- R27: Rx = Fh, Register Indirect. -/
theorem test_wf_indr_pc : (Instr.st (.g 0) (.indr .pc)).wellFormed = false := by decide
/-- R27: Rx = Fh, Byte Register Indirect. -/
theorem test_wf_bindr_pc : (Instr.ld (.g 0) (.mem (.bindr .pc))).wellFormed = false := by decide
/-- R27: Rx = Fh of a jump. -/
theorem test_wf_jump_pc : (Instr.jmp (.indr .pc)).wellFormed = false := by decide
/-- R27: Rx = Fh of an I/O instruction. -/
theorem test_wf_port_pc : (Instr.inp (.g 0) (.bindr .pc)).wellFormed = false := by decide
/-- 42_mul_div.md R144: an odd Rd. -/
theorem test_wf_pair_odd : (Instr.mull (.g 1) (.imm4 1#4)).wellFormed = false := by decide
/-- R144: Rd = Ch heads no admitted pair. -/
theorem test_wf_pair_g12 : (Instr.divl (.g 12) (.imm4 1#4)).wellFormed = false := by decide
/-- A well-formed term passes. -/
theorem test_wf_ok : (Instr.mull (.g 10) (.mem (.idx 0#16 .usp))).wellFormed = true := by decide

/-! ### Decoding, from words written out bit by bit: OP[7:3] the row, OP[2:0] the mode, then Rd and Rx (30_encoding.md R81, R94) -/

/-- The instruction of one or two words. -/
def dec (w1 w2 : Word) : Option Instr :=
  match decodeWords w1 w2 with
  | .ok i => some i
  | .error _ => none

/-- Why two words are no instruction. -/
def decError (w1 w2 : Word) : Option WordError :=
  match decodeWords w1 w2 with
  | .ok _ => none
  | .error e => some e

theorem test_dec_no : dec 0b0000000000000000#16 0#16 = some (.no) := by decide
theorem test_dec_ld : dec 0b0000100000010000#16 0x1234#16 = some (.ld (.g 1) (.mem (.drct 0x1234#16))) := by decide
theorem test_dec_add : dec 0b0001100100101110#16 0x1234#16 = some (.add (.g 2) (.mem (.idx 0x1234#16 .usp))) := by decide
theorem test_dec_sub : dec 0b0010001000110000#16 0x1234#16 = some (.sub (.g 3) (.imm 0x1234#16)) := by decide
theorem test_dec_cmp : dec 0b0010101101001000#16 0x1234#16 = some (.cmp (.g 4) (.mem (.fp 8#4))) := by decide
theorem test_dec_and : dec 0b0011010001011101#16 0x1234#16 = some (.and (.g 5) (.reg .sp)) := by decide
theorem test_dec_or : dec 0b0011110101101111#16 0x1234#16 = some (.or (.g 6) (.imm4 15#4)) := by decide
theorem test_dec_xor : dec 0b0100011001110010#16 0x1234#16 = some (.xor (.g 7) (.mem (.indr (.g 2)))) := by decide
theorem test_dec_adds : dec 0b0100111110001100#16 0x1234#16 = some (.adds (.g 8) (.mem (.bindr (.g 12)))) := by decide
theorem test_dec_mul : dec 0b0101000010010000#16 0x1234#16 = some (.mul (.g 9) (.mem (.drct 0x1234#16))) := by decide
theorem test_dec_div : dec 0b0101100110101110#16 0x1234#16 = some (.div (.g 10) (.mem (.idx 0x1234#16 .usp))) := by decide
theorem test_dec_mod : dec 0b0110001010110000#16 0x1234#16 = some (.mod (.g 11) (.imm 0x1234#16)) := by decide
theorem test_dec_mull : dec 0b0110101110101000#16 0x1234#16 = some (.mull (.g 10) (.mem (.fp 8#4))) := by decide
theorem test_dec_divl : dec 0b0111010010101101#16 0x1234#16 = some (.divl (.g 10) (.reg .sp)) := by decide
theorem test_dec_shla : dec 0b1000010100011111#16 0x1234#16 = some (.shla (.g 1) (.imm4 15#4)) := by decide
theorem test_dec_shll : dec 0b1000111000100010#16 0x1234#16 = some (.shll (.g 2) (.mem (.indr (.g 2)))) := by decide
theorem test_dec_shra : dec 0b1001011100111100#16 0x1234#16 = some (.shra (.g 3) (.mem (.bindr (.g 12)))) := by decide
theorem test_dec_shrl : dec 0b1001100001000000#16 0x1234#16 = some (.shrl (.g 4) (.mem (.drct 0x1234#16))) := by decide
theorem test_dec_st_bindr : dec 0b0001011100000001#16 0#16 = some (.st (.g 0) (.bindr (.g 1))) := by decide
theorem test_dec_ldFlag : dec 0b0001010000110000#16 0#16 = some (.ldFlag (.g 3)) := by decide
theorem test_dec_jz : dec 0b1010000000000000#16 0x0200#16 = some (.jz (.drct 0x0200#16)) := by decide
theorem test_dec_jc : dec 0b1010000100010010#16 0x0200#16 = some (.jc (.idx 0x0200#16 (.g 2))) := by decide
theorem test_dec_jm : dec 0b1010011000100001#16 0x0200#16 = some (.jm (.indr (.g 1))) := by decide
theorem test_dec_jo : dec 0b1010000000110000#16 0x0200#16 = some (.jo (.drct 0x0200#16)) := by decide
theorem test_dec_jgt : dec 0b1010000101000010#16 0x0200#16 = some (.jgt (.idx 0x0200#16 (.g 2))) := by decide
theorem test_dec_jge : dec 0b1010011001010001#16 0x0200#16 = some (.jge (.indr (.g 1))) := by decide
theorem test_dec_jle : dec 0b1010000001100000#16 0x0200#16 = some (.jle (.drct 0x0200#16)) := by decide
theorem test_dec_jlt : dec 0b1010000101110010#16 0x0200#16 = some (.jlt (.idx 0x0200#16 (.g 2))) := by decide
theorem test_dec_jnz : dec 0b1010011010000001#16 0x0200#16 = some (.jnz (.indr (.g 1))) := by decide
theorem test_dec_jnc : dec 0b1010000010010000#16 0x0200#16 = some (.jnc (.drct 0x0200#16)) := by decide
theorem test_dec_jnm : dec 0b1010000110100010#16 0x0200#16 = some (.jnm (.idx 0x0200#16 (.g 2))) := by decide
theorem test_dec_jno : dec 0b1010011010110001#16 0x0200#16 = some (.jno (.indr (.g 1))) := by decide
theorem test_dec_jhi : dec 0b1010000011000000#16 0x0200#16 = some (.jhi (.drct 0x0200#16)) := by decide
theorem test_dec_jls : dec 0b1010011011100001#16 0x0200#16 = some (.jls (.indr (.g 1))) := by decide
theorem test_dec_jmp : dec 0b1010000011110000#16 0x0200#16 = some (.jmp (.drct 0x0200#16)) := by decide
theorem test_dec_call : dec 0b1010100100000010#16 0x0010#16 = some (.call (.idx 0x0010#16 (.g 2))) := by decide
theorem test_dec_inp : dec 0b1011011100000001#16 0#16 = some (.inp (.g 0) (.bindr (.g 1))) := by decide
theorem test_dec_outp : dec 0b1011100000000000#16 0x00F4#16 = some (.outp (.g 0) (.drct 0x00F4#16)) := by decide
theorem test_dec_push : dec 0b1100000011010000#16 0#16 = some (.push .sp) := by decide
theorem test_dec_pop : dec 0b1100010001000000#16 0#16 = some (.pop (.g 4)) := by decide
theorem test_dec_ret : dec 0b1101000000000000#16 0#16 = some (.ret) := by decide
theorem test_dec_reti : dec 0b1101010000000000#16 0#16 = some (.reti) := by decide
theorem test_dec_ei : dec 0b1110000000000000#16 0#16 = some (.ei) := by decide
theorem test_dec_di : dec 0b1110010000000000#16 0#16 = some (.di) := by decide
theorem test_dec_svc : dec 0b1111000000000000#16 0#16 = some (.svc) := by decide
theorem test_dec_halt : dec 0b1111111100000000#16 0#16 = some (.halt) := by decide

/-! Words with no meaning, by name (60_exceptions.md R208 (5)). -/

theorem test_dec_blank_12 : decError 0x1200#16 0#16 = some .undefinedOp := by decide
theorem test_dec_blank_a7 : decError 0xA7F0#16 0#16 = some .undefinedOp := by decide
/-- 95_test_vectors.md 2.1 #18. -/
theorem test_dec_0012 : decError 0x0012#16 0#16 = some .nonZeroField := by decide
/-- 2.10 #8. -/
theorem test_dec_ffff : decError 0xFFFF#16 0#16 = some .nonZeroField := by decide
/-- 2.7 #4. -/
theorem test_dec_jump_d : decError 0xA0D0#16 0x0200#16 = some .jumpConditionD := by decide
/-- 2.1 #15. -/
theorem test_dec_pc : decError 0x0C0F#16 0#16 = some .pcOperand := by decide
/-- 2.5 #10. -/
theorem test_dec_pair : decError 0x6C14#16 0#16 = some .badRegisterPair := by decide
theorem test_dec_truncated : decode [0x08#8, 0x10#8, 0x12#8] = .error .truncated := by decide

/-! ### One step: the words at 0100h, FLAG = 0040h before, unless a comment says otherwise -/

/-- PC = 0100h, FLAG = 0040h. -/
def start : State := { State.reset with pc := 0x0100#16 }

/-- User mode: PC = 0100h, FLAG = 0000h, SSP = D000h, USP = C000h, limits 0000h and DFFFh. -/
def user : State :=
  { start with flag := Flags.ofWord 0#16, ssp := 0xD000#16, usp := 0xC000#16, lowerLimit := 0x0000#16, upperLimit := 0xDFFF#16 }

/-- The state of a next outcome. -/
def nextState (o : Host.Outcome State Fault Refusal) : Option State :=
  match o with
  | .next t => some t
  | .fault _ => none
  | .refused _ => none

/-- The fault of an outcome. -/
def faultOf (o : Host.Outcome State Fault Refusal) : Option Fault :=
  match o with
  | .next _ => none
  | .fault f => some f
  | .refused _ => none

/-- The refusal of an outcome. -/
def refusalOf (o : Host.Outcome State Fault Refusal) : Option Refusal :=
  match o with
  | .next _ => none
  | .fault _ => none
  | .refused r => some r

/-- A state with two words at PC. -/
def code (s : State) (w1 w2 : Word) : State := (s.storeWord s.pc w1).storeWord (s.pc + 2#16) w2

/-- One step with the two words at PC, and what a test looks at in the state after it. -/
def look {α : Type} (w1 w2 : Word) (s : State) (f : State → α) : Option α :=
  (nextState (step (code s w1 w2))).map f

/-- A general register, FLAG and PC. -/
def regs (n : Fin 13) (t : State) : Word × Word × Word := (t.gr[n], t.flag.toWord, t.pc)

/-- A general register, S, Z and PC, for results whose C and V are free. -/
def result (n : Fin 13) (t : State) : Word × Bool × Bool × Word := (t.gr[n], t.flag.s, t.flag.z, t.pc)

/-- The bytes of a word of memory as they stand. -/
def bytes (a : Nat) (t : State) : Option Byte × Option Byte := (t.mem.get a, t.mem.get (a + 1))

/-- 2.1 #17. -/
theorem test_no : look 0x0000#16 0#16 start (fun t => (t.pc, t.flag.toWord)) = some (0x0102#16, 0x0040#16) := by decide
/-- 2.1 #12. -/
theorem test_ld_byte_even :
    look 0x0F02#16 0#16 ((start.setGr 2 0x2000#16).storeWord 0x2000#16 0xA55A#16) (regs 0) =
      some (0x00A5#16, 0x0040#16, 0x0102#16) := by decide
/-- 2.1 #16. -/
theorem test_ldFlag :
    look 0x1430#16 0#16 (start.setFlag (Flags.ofWord 0x00C5#16)) (regs 3) =
      some (0x00C5#16, 0x00C5#16, 0x0102#16) := by decide
/-- 2.2 #1. -/
theorem test_st :
    look 0x1020#16 0x4000#16 (start.setGr 2 0xCAFE#16) (fun t => (bytes 0x4000 t, t.pc)) =
      some ((some 0xCA#8, some 0xFE#8), 0x0104#16) := by decide
/-- 2.2 #3. -/
theorem test_st_byte :
    look 0x1701#16 0#16 (((start.setGr 0 0x1234#16).setGr 1 0x3000#16).storeWord 0x3000#16 0xFFFF#16) (bytes 0x3000) =
      some (some 0x34#8, some 0xFF#8) := by decide
/-- 2.3. -/
theorem test_add_carry :
    look 0x1C12#16 0#16 ((start.setGr 1 0xFFFF#16).setGr 2 1#16) (regs 1) =
      some (0x0000#16, 0x0045#16, 0x0102#16) := by decide
/-- 2.3. -/
theorem test_add_overflow :
    look 0x1C12#16 0#16 ((start.setGr 1 0x8000#16).setGr 2 0x8000#16) (regs 1) =
      some (0x0000#16, 0x004D#16, 0x0102#16) := by decide
/-- 2.3. -/
theorem test_sub_borrow :
    look 0x2412#16 0#16 ((start.setGr 1 0#16).setGr 2 1#16) (regs 1) = some (0xFFFF#16, 0x0046#16, 0x0102#16) := by decide
/-- 2.3. -/
theorem test_sub_overflow :
    look 0x2412#16 0#16 ((start.setGr 1 0x7FFF#16).setGr 2 0xFFFF#16) (regs 1) =
      some (0x8000#16, 0x004E#16, 0x0102#16) := by decide
/-- 2.3. -/
theorem test_cmp_unsigned :
    look 0x2C12#16 0#16 ((start.setGr 1 1#16).setGr 2 0xFFFF#16) (regs 1) =
      some (0x0001#16, 0x0044#16, 0x0102#16) := by decide
/-- 2.4 #1. -/
theorem test_and :
    look 0x3200#16 0x00FF#16 (start.setGr 0 0x12F4#16) (result 0) = some (0x00F4#16, false, false, 0x0104#16) := by decide
/-- 2.4 #3. -/
theorem test_or :
    look 0x3C01#16 0#16 ((start.setGr 0 0x0F00#16).setGr 1 0x8001#16) (result 0) =
      some (0x8F01#16, true, false, 0x0102#16) := by decide
/-- 2.4 #4. -/
theorem test_xor :
    look 0x452F#16 0#16 (start.setGr 2 0xAAAA#16) (result 2) = some (0x5555#16, false, false, 0x0102#16) := by decide
/-- 2.4 #6. -/
theorem test_adds :
    look 0x4C12#16 0#16 ((start.setGr 1 0x1000#16).setGr 2 3#16) (result 1) =
      some (0x1006#16, false, false, 0x0102#16) := by decide
/-- 2.4 #7. -/
theorem test_adds_wrap :
    look 0x4C12#16 0#16 ((start.setGr 1 0x1000#16).setGr 2 0x8000#16) (result 1) =
      some (0x1000#16, false, false, 0x0102#16) := by decide
/-- 2.5 #2. -/
theorem test_mul :
    look 0x5412#16 0#16 ((start.setGr 1 0xFFFF#16).setGr 2 0xFFFF#16) (result 1) =
      some (0x0001#16, false, false, 0x0102#16) := by decide
/-- 2.5 #4. -/
theorem test_div :
    look 0x5D17#16 0#16 (start.setGr 1 0x0064#16) (result 1) = some (0x000E#16, false, false, 0x0102#16) := by decide
/-- 2.5 #6, but for the word FAULT_PC. -/
theorem test_div_zero :
    look 0x5C12#16 0#16 (((start.setGr 1 0x0064#16).setSsp 0xD000#16).storeWord 0xFFF8#16 0x0200#16)
      (fun t => (t.gr[1], t.ssp, t.flag.toWord, t.pc, bytes 0xCFFC t)) =
      some (0x0064#16, 0xCFFC#16, 0x0040#16, 0x0200#16, some 0x00#8, some 0x40#8) := by decide
/-- 2.5 #5. -/
theorem test_mod :
    look 0x6517#16 0#16 (start.setGr 1 0x0064#16) (result 1) = some (0x0002#16, false, false, 0x0102#16) := by decide
/-- 2.5 #9. -/
theorem test_mull :
    look 0x6C24#16 0#16 ((start.setGr 2 0x7FFF#16).setGr 4 0x7FFF#16) (fun t => (t.gr[2], t.gr[3], t.pc)) =
      some (0x0001#16, 0x3FFF#16, 0x0102#16) := by decide
/-- 2.5 #11. -/
theorem test_divl :
    look 0x7523#16 0#16 ((start.setGr 3 1#16).setGr 2 0#16) (fun t => (t.gr[2], t.gr[3], t.pc)) =
      some (0x5555#16, 0x0001#16, 0x0102#16) := by decide
/-- 2.5 #12. -/
theorem test_divl_pair :
    look 0x7424#16 0#16 (((start.setGr 3 0x0012#16).setGr 2 0x3400#16).setGr 4 0x0100#16) (fun t => (t.gr[2], t.gr[3])) =
      some (0x1234#16, 0x0000#16) := by decide
/-- 2.6 #1. -/
theorem test_shla : look 0x8514#16 0#16 (start.setGr 1 3#16) (result 1) = some (0x0030#16, false, false, 0x0102#16) := by decide
/-- 2.6 #8. -/
theorem test_shla_zero :
    look 0x8510#16 0#16 (start.setGr 1 0x8000#16) (result 1) = some (0x8000#16, true, false, 0x0102#16) := by decide
/-- 2.6 #2. -/
theorem test_shll :
    look 0x8D11#16 0#16 (start.setGr 1 0x4001#16) (result 1) = some (0x8002#16, true, false, 0x0102#16) := by decide
/-- 2.6 #5. -/
theorem test_shll_15 :
    look 0x8C12#16 0#16 ((start.setGr 1 1#16).setGr 2 0x000F#16) (result 1) =
      some (0x8000#16, true, false, 0x0102#16) := by decide
/-- 2.6 #3. -/
theorem test_shra :
    look 0x9512#16 0#16 (start.setGr 1 0x8004#16) (result 1) = some (0xE001#16, true, false, 0x0102#16) := by decide
/-- 2.6 #6. -/
theorem test_shra_15 :
    look 0x9412#16 0#16 ((start.setGr 1 0x8000#16).setGr 2 0x000F#16) (result 1) =
      some (0xFFFF#16, true, false, 0x0102#16) := by decide
/-- 2.6 #4. -/
theorem test_shrl :
    look 0x9D12#16 0#16 (start.setGr 1 0x8004#16) (result 1) = some (0x2001#16, false, false, 0x0102#16) := by decide
/-- 2.6 #7. -/
theorem test_shrl_15 :
    look 0x9C12#16 0#16 ((start.setGr 1 0x8000#16).setGr 2 0x000F#16) (result 1) =
      some (0x0001#16, false, false, 0x0102#16) := by decide

/-- The sixteen values of V C S Z for which a jump with condition digit c leaves 0100h for 0200h, as a row of the table of 2.7. -/
def takenRow (c : Nibble) : Option (List Bool) :=
  (List.range 16).mapM fun f =>
    look (packWord 0xA0#8 c 0#4) 0x0200#16 (start.setFlag (Flags.ofWord (BitVec.ofNat 16 (0x40 + f))))
      fun t => decide (t.pc = 0x0200#16)

/-- 2.7, row JZ. -/
theorem test_jz : takenRow 0#4 = some
    [false, true, false, true, false, true, false, true, false, true, false, true, false, true, false, true] := by
  decide
/-- 2.7, row JC. -/
theorem test_jc : takenRow 1#4 = some
    [false, false, false, false, true, true, true, true, false, false, false, false, true, true, true, true] := by
  decide
/-- 2.7, row JM. -/
theorem test_jm : takenRow 2#4 = some
    [false, false, true, true, false, false, true, true, false, false, true, true, false, false, true, true] := by
  decide
/-- 2.7, row JO. -/
theorem test_jo : takenRow 3#4 = some
    [false, false, false, false, false, false, false, false, true, true, true, true, true, true, true, true] := by
  decide
/-- 2.7, row JGT. -/
theorem test_jgt : takenRow 4#4 = some
    [true, false, false, false, true, false, false, false, false, false, true, false, false, false, true, false] := by
  decide
/-- 2.7, row JGE. -/
theorem test_jge : takenRow 5#4 = some
    [true, true, false, false, true, true, false, false, false, false, true, true, false, false, true, true] := by
  decide
/-- 2.7, row JLE. -/
theorem test_jle : takenRow 6#4 = some
    [false, true, true, true, false, true, true, true, true, true, false, true, true, true, false, true] := by
  decide
/-- 2.7, row JLT. -/
theorem test_jlt : takenRow 7#4 = some
    [false, false, true, true, false, false, true, true, true, true, false, false, true, true, false, false] := by
  decide
/-- 2.7, row JNZ. -/
theorem test_jnz : takenRow 8#4 = some
    [true, false, true, false, true, false, true, false, true, false, true, false, true, false, true, false] := by
  decide
/-- 2.7, row JNC. -/
theorem test_jnc : takenRow 9#4 = some
    [true, true, true, true, false, false, false, false, true, true, true, true, false, false, false, false] := by
  decide
/-- 2.7, row JNM. -/
theorem test_jnm : takenRow 10#4 = some
    [true, true, false, false, true, true, false, false, true, true, false, false, true, true, false, false] := by
  decide
/-- 2.7, row JNO. -/
theorem test_jno : takenRow 11#4 = some
    [true, true, true, true, true, true, true, true, false, false, false, false, false, false, false, false] := by
  decide
/-- 2.7, row JHI. -/
theorem test_jhi : takenRow 12#4 = some
    [true, false, true, false, false, false, false, false, true, false, true, false, false, false, false, false] := by
  decide
/-- 2.7, row JLS. -/
theorem test_jls : takenRow 14#4 = some
    [false, true, false, true, true, true, true, true, false, true, false, true, true, true, true, true] := by
  decide
/-- 2.7, row JMP. -/
theorem test_jmp : takenRow 15#4 = some
    [true, true, true, true, true, true, true, true, true, true, true, true, true, true, true, true] := by
  decide
/-- 2.7 #1. -/
theorem test_jmp_idx : look 0xA1F2#16 0x0010#16 (start.setGr 2 0x1000#16) (fun t => t.pc) = some 0x1010#16 := by decide
/-- 2.7 #3. -/
theorem test_jz_not_taken : look 0xA601#16 0#16 (start.setGr 1 0x1234#16) (fun t => t.pc) = some 0x0102#16 := by decide
/-- 2.7 #5. -/
theorem test_call :
    look 0xA800#16 0x0200#16 (start.setSsp 0xE000#16) (fun t => (t.ssp, bytes 0xDFFE t, t.pc)) =
      some (0xDFFE#16, (some 0x01#8, some 0x04#8), 0x0200#16) := by decide
/-- 2.7 #7. -/
theorem test_call_user :
    look 0xA902#16 0x0010#16 (user.setGr 2 0x0500#16) (fun t => (t.usp, t.ssp, bytes 0xBFFE t, t.pc)) =
      some (0xBFFE#16, 0xD000#16, (some 0x01#8, some 0x04#8), 0x0510#16) := by decide
/-- 2.8 #2 at the "00H" byte 08h of 20_memory.md R65, which reads 00h. -/
theorem test_inp :
    look 0xB701#16 0#16 (start.setGr 1 0x0008#16) (fun t => (t.gr[0], t.ioLog, t.pc)) =
      some (0#16, [.read 0x0008#16 .byte 0#16], 0x0102#16) := by decide
/-- 2.8 #4. -/
theorem test_outp_byte :
    look 0xBF01#16 0#16 ((start.setGr 0 0x1241#16).setGr 1 9#16) (fun t => t.ioLog) =
      some [.write 0x0009#16 .byte 0x0041#16] := by decide
/-- 2.8 #8. -/
theorem test_outp_limit :
    look 0xB800#16 0x00F6#16 (start.setGr 0 0xDFFF#16) (fun t => (t.lowerLimit, t.upperLimit)) =
      some (0x0000#16, 0xDFFF#16) := by decide
/-- 2.8 #6. -/
theorem test_inp_user :
    look 0xB000#16 0x0008#16 (user.storeWord 0xFFFA#16 0x0200#16) (fun t => (t.ssp, t.usp, t.flag.toWord, t.pc, t.ioLog)) =
      some (0xCFFC#16, 0xC000#16, 0x0040#16, 0x0200#16, []) := by decide
/-- 2.9 #1. -/
theorem test_push :
    look 0xC030#16 0#16 ((start.setSsp 0xE000#16).setGr 3 0xBEEF#16) (fun t => (t.ssp, bytes 0xDFFE t, t.pc)) =
      some (0xDFFE#16, (some 0xBE#8, some 0xEF#8), 0x0102#16) := by decide
/-- 2.9 #7. -/
theorem test_push_sp :
    look 0xC0D0#16 0#16 (start.setSsp 0xE000#16) (fun t => (t.ssp, bytes 0xDFFE t)) =
      some (0xDFFE#16, some 0xE0#8, some 0x00#8) := by decide
/-- 2.9 #2. -/
theorem test_pop :
    look 0xC440#16 0#16 ((start.setSsp 0xDFFE#16).storeWord 0xDFFE#16 0xBEEF#16) (fun t => (t.gr[4], t.ssp, t.pc)) =
      some (0xBEEF#16, 0xE000#16, 0x0102#16) := by decide
/-- 2.9 #8. -/
theorem test_pop_sp :
    look 0xC4D0#16 0#16 ((start.setSsp 0xDFFE#16).storeWord 0xDFFE#16 0x1230#16) (fun t => t.ssp) =
      some 0x1230#16 := by decide
/-- 2.9 #3. -/
theorem test_ret :
    look 0xD000#16 0#16 ((start.setSsp 0xDFFE#16).storeWord 0xDFFE#16 0x0104#16) (fun t => (t.pc, t.ssp)) =
      some (0x0104#16, 0xE000#16) := by decide
/-- 2.9 #5. -/
theorem test_reti :
    look 0xD400#16 0#16 (((start.setSsp 0xDFFC#16).storeWord 0xDFFC#16 0xFF5F#16).storeWord 0xDFFE#16 0x0300#16)
      (fun t => (t.flag.toWord, t.pc, t.ssp)) =
      some (0x004F#16, 0x0300#16, 0xE000#16) := by decide
/-- 2.9 #6. -/
theorem test_reti_user :
    look 0xD400#16 0#16 (((user.setUsp 0xBFFC#16).storeWord 0xBFFC#16 0x00EF#16).storeWord 0xBFFE#16 0x0300#16)
      (fun t => (t.flag.toWord, t.pc, t.usp, t.ssp)) =
      some (0x000F#16, 0x0300#16, 0xC000#16, 0xD000#16) := by decide
/-- 2.10 #1. -/
theorem test_ei : look 0xE000#16 0#16 start (fun t => (t.flag.toWord, t.pc)) = some (0x00C0#16, 0x0102#16) := by decide
/-- 2.10 #3. -/
theorem test_ei_user :
    look 0xE000#16 0#16 (user.storeWord 0xFFFA#16 0x0200#16) (fun t => (t.flag.toWord, t.pc, t.ssp, bytes 0xCFFC t)) =
      some (0x0040#16, 0x0200#16, 0xCFFC#16, some 0x00#8, some 0x00#8) := by decide
/-- 2.10 #2. -/
theorem test_di :
    (nextState (exec .di (start.setFlag (Flags.ofWord 0x00C0#16)))).map (fun t => (t.flag.toWord, t.pc)) =
      some (0x0040#16, 0x0102#16) := by decide
/-- 2.10 #6, from E = 0. -/
theorem test_svc :
    look 0xF000#16 0#16 (((start.setSsp 0xE000#16).setFlag (Flags.ofWord 0x0045#16)).storeWord 0xFFFE#16 0x0400#16)
      (fun t => (t.ssp, bytes 0xDFFE t, bytes 0xDFFC t, t.flag.toWord, t.pc)) =
      some (0xDFFC#16, (some 0x01#8, some 0x02#8), (some 0x00#8, some 0x45#8), 0x0045#16, 0x0400#16) := by decide
/-- 2.10 #7, from 0100h. -/
theorem test_halt : look 0xFF00#16 0#16 start (fun t => (t.halted, t.pc)) = some (true, 0x0102#16) := by decide
/-- 2.10 #4. -/
theorem test_halt_user :
    (nextState (exec .halt ((user.setFlag (Flags.ofWord 0x0080#16)).storeWord 0xFFFA#16 0x0200#16))).map
      (fun t => (t.halted, t.flag.toWord, t.pc, bytes 0xCFFC t)) =
      some (false, 0x0040#16, 0x0200#16, some 0x00#8, some 0x80#8) := by decide
/-- 2.10 #9. -/
theorem test_blank :
    look 0x7800#16 0#16 ((start.setSsp 0xD000#16).storeWord 0xFFFC#16 0x0200#16) (fun t => (t.ssp, t.pc, bytes 0xCFFC t)) =
      some (0xCFFC#16, 0x0200#16, some 0x00#8, some 0x40#8) := by decide
/-- 2.10 #10. -/
theorem test_interrupt :
    (nextState (step (({ start with irq := 0b10000#10, ssp := 0xD000#16, flag := Flags.ofWord 0x00C1#16 } : State).storeWord 0xFFE8#16 0x0240#16))).map
      (fun t => (t.ssp, bytes 0xCFFE t, bytes 0xCFFC t, t.flag.toWord, t.pc)) =
      some (0xCFFC#16, (some 0x01#8, some 0x00#8), (some 0x00#8, some 0xC1#8), 0x0041#16, 0x0240#16) := by decide
/-- 2.11 #1. -/
theorem test_limit :
    look 0x0810#16 0xE000#16 (user.storeWord 0xFFF6#16 0x0200#16) (fun t => (t.ssp, bytes 0xCFFC t, t.flag.toWord, t.pc)) =
      some (0xCFFC#16, (some 0x00#8, some 0x00#8), 0x0040#16, 0x0200#16) := by decide

/-- 20_memory.md R67: the byte 8Fh written to the extension port Hi is output mode with the four lines 1. -/
theorem test_ext_hi : extHiOutput 0x8F#8 = true ∧ extHiLines 0x8F#8 = 15#4 ∧ extHiOutput 0x00#8 = false := by decide
/-- 70_reset_and_hazards.md R249, R250: SHLL Rd,#3 has 5 + 3 states, a jump not taken 4. -/
theorem test_states : stateCount (.shll (.g 0) (.imm4 3#4)) start = .ok 8 ∧ stateCount (.jz (.drct 0#16)) start = .ok 4 := by
  decide
/-- The placed word is the next instruction run: LD G1,#7 (0D17h). -/
theorem test_withFetchWord : (nextState (step (State.reset.withFetchWord 16 0x0D17))).map (fun t => (t.gr[1], t.pc)) =
    some (0x0007#16, 0xF002#16) := by decide

/-! ### Witnesses: for every statement with hypotheses, a state and operands that meet them all, clause by clause -/

theorem test_witness_DecodeAfterEncode :
    (Instr.divl (.g 10) (.mem (.idx 0xFFFF#16 .usp))).wellFormed = true ∧ (Instr.st .usp (.fp 8#4)).wellFormed = true := by
  decide

theorem test_witness_EncodeAfterDecode :
    decode [0x75#8, 0xA1#8, 0xFF#8] = .ok (.divl (.g 10) (.imm4 1#4), [0xFF#8]) := by decide

theorem test_witness_InstructionLength :
    (decodeWords 0x0810#16 0#16 = .ok (.ld (.g 1) (.mem (.drct 0#16))) ∧ needsSecondWord 0x0810#16 = some true) ∧
      (decodeWords 0xB800#16 0#16 = .ok (.outp (.g 0) (.drct 0#16)) ∧ needsSecondWord 0xB800#16 = some true) ∧
      (decodeWords 0x0000#16 0#16 = .ok .no ∧ needsSecondWord 0x0000#16 = some false) ∧
      (decodeWords 0xC000#16 0#16 = .ok (.push (.g 0)) ∧ needsSecondWord 0xC000#16 = some false) := by decide

theorem test_witness_InstructionLength_blank :
    AboutToFetch (code start 0x7800#16 0#16) ∧
      readWord (code start 0x7800#16 0#16) .fetch (code start 0x7800#16 0#16).pc = .ok 0x7800#16 ∧
      needsSecondWord 0x7800#16 = none :=
  ⟨⟨by decide, by decide⟩, by decide, by decide⟩

theorem test_witness_OperandModes :
    (twoOperand 1 = some .ld ∧ (Instr.ld (.ofNum 0#4) (.imm4 0#4)).wellFormed = true ∧ (0#4 : Nibble) ≠ 15#4 ∧
        readReg user (.ofNum 0#4) = .ok 0#16) ∧
      (twoOperand 19 = some .shrl ∧ (Instr.shrl (.ofNum 14#4) (.imm4 14#4)).wellFormed = true ∧ (14#4 : Nibble) ≠ 15#4 ∧
        readReg user (.ofNum 14#4) = .ok 0xC000#16) ∧
      (twoOperand 13 = some .mull ∧ (Instr.mull (.ofNum 10#4) (.imm4 15#4)).wellFormed = true) :=
  ⟨⟨rfl, by decide, by decide, by decide⟩, ⟨rfl, by decide, by decide, by decide⟩, ⟨rfl, by decide⟩⟩

theorem test_witness_IndexedByteAndJumpModes :
    readReg ((start.setGr 2 0x2001#16).storeWord 0x2000#16 0xA55A#16) (.g 2) = .ok 0x2001#16 ∧
      readByte ((start.setGr 2 0x2001#16).storeWord 0x2000#16 0xA55A#16) .read 0x2001#16 = .ok 0x5A#8 := by decide

theorem test_witness_RegisterNumbers :
    (0#4 : Nibble).toNat = (0 : Fin 13).val ∧ (12#4 : Nibble).toNat = (12 : Fin 13).val ∧ start.flag.p = true ∧
      user.flag.p = false := by decide

theorem test_witness_ReadAfterWrite :
    WordWritable start .write 0x0000#16 ∧ WordWritable user .stack 0xDFFE#16 ∧ WordWritable start .write 0xEFFE#16 ∧
      WordWritable start .vector 0xFFFE#16 ∧ regionOf (0xFFFE#16 : Word).toNat ≠ .attrib ∧
      WordAllowed (start.storeWord 0xFFFE#16 1#16) .read 0xFFFE#16 :=
  ⟨⟨⟨by decide, by decide, by decide⟩, by decide⟩, ⟨⟨by decide, by decide, by decide⟩, by decide⟩,
    ⟨⟨by decide, by decide, by decide⟩, by decide⟩, ⟨⟨by decide, by decide, by decide⟩, by decide⟩, by decide,
    ⟨by decide, by decide, by decide⟩⟩

theorem test_witness_ReadAfterWrite_attrib :
    regionOf (0xE000#16 : Word).toNat = .attrib ∧ WordAllowed (start.storeWord 0xE000#16 0x0041#16) .read 0xE000#16 ∧
      byteAt (start.storeWord 0xE000#16 0x0041#16) .read (0xE000#16 + 1#16) = .ok 0x41#8 :=
  ⟨by decide, ⟨by decide, by decide, by decide⟩, by decide⟩

theorem test_witness_StepRunsDecodedInstruction_next :
    AboutToFetch (code start 0x0D17#16 0#16) ∧ HoldsInstr (code start 0x0D17#16 0#16) (.ld (.g 1) (.imm4 7#4)) ∧
      ∃ t, exec (.ld (.g 1) (.imm4 7#4)) (code start 0x0D17#16 0#16) = .next t :=
  ⟨⟨by decide, by decide⟩, ⟨0x0D17#16, 0#16, by decide, by decide, by decide⟩, ⟨_, rfl⟩⟩

theorem test_witness_StepRunsDecodedInstruction_fault :
    AboutToFetch (code start 0x0810#16 0x3000#16) ∧
      HoldsInstr (code start 0x0810#16 0x3000#16) (.ld (.g 1) (.mem (.drct 0x3000#16))) ∧
      exec (.ld (.g 1) (.mem (.drct 0x3000#16))) (code start 0x0810#16 0x3000#16) = .fault .unwritten :=
  ⟨⟨by decide, by decide⟩, ⟨0x0810#16, 0x3000#16, by decide, by decide, by decide⟩, rfl⟩

theorem test_witness_StepRunsDecodedInstruction_refused :
    AboutToFetch (code start 0x1020#16 0xF000#16) ∧
      HoldsInstr (code start 0x1020#16 0xF000#16) (.st (.g 2) (.drct 0xF000#16)) ∧
      exec (.st (.g 2) (.drct 0xF000#16)) (code start 0x1020#16 0xF000#16) = .refused .romWrite :=
  ⟨⟨by decide, by decide⟩, ⟨0x1020#16, 0xF000#16, by decide, by decide, by decide⟩, rfl⟩

theorem test_witness_StepRunsEncodedInstruction :
    AboutToFetch (code start 0x0810#16 0x1234#16) ∧ (Instr.ld (.g 1) (.mem (.drct 0x1234#16))).wellFormed = true ∧
      isOdd (code start 0x0810#16 0x1234#16).pc = false ∧
      ∀ k : Nat, k < (Instr.ld (.g 1) (.mem (.drct 0x1234#16))).byteLen →
        denied (code start 0x0810#16 0x1234#16) .fetch ((code start 0x0810#16 0x1234#16).pc + BitVec.ofNat 16 k) = false ∧
          ∃ b, (encodeBytes (.ld (.g 1) (.mem (.drct 0x1234#16))))[k]? = some b ∧
            byteAt (code start 0x0810#16 0x1234#16) .fetch ((code start 0x0810#16 0x1234#16).pc + BitVec.ofNat 16 k) =
              .ok b := by
  refine ⟨⟨by decide, by decide⟩, by decide, by decide, fun k hk => ?_⟩
  match k, hk with
  | 0, _ => exact ⟨by decide, 0x08#8, by decide, by decide⟩
  | 1, _ => exact ⟨by decide, 0x10#8, by decide, by decide⟩
  | 2, _ => exact ⟨by decide, 0x12#8, by decide, by decide⟩
  | 3, _ => exact ⟨by decide, 0x34#8, by decide, by decide⟩
  | k + 4, hk => exact absurd hk (by simp [Instr.byteLen, EA.byteLen, MemEA.byteLen])

/-- E = 1 and irq[9] alone pending. -/
def pending9 : State := { start with irq := 0b1000000000#10, flag := Flags.ofWord 0x00C0#16 }

theorem test_witness_InterruptCheck :
    (start.halted = false ∧ start.flag.e = false ∧ start.irq = 0#10) ∧
      (pending9.halted = false ∧ pendingInterrupt pending9 = some 9 ∧ pending9.flag.e = true ∧ pending9.irq ≠ 0#10) := by
  decide

theorem test_witness_BlankOpcodesTrap :
    AboutToFetch (code start 0x0100#16 0#16) ∧
      readWord (code start 0x0100#16 0#16) .fetch (code start 0x0100#16 0#16).pc = .ok 0x0100#16 ∧
      isBlankOp (opField 0x0100#16).toNat = true ∧ isBlankOp (opField 0xFE00#16).toNat = true ∧
      isBlankOp (opField 0xFF00#16).toNat = false :=
  ⟨⟨by decide, by decide⟩, by decide, by decide, by decide, by decide⟩

theorem test_witness_MeaninglessWordsRefused_step :
    AboutToFetch (code start 0x0811#16 0x2000#16) ∧
      readWord (code start 0x0811#16 0x2000#16) .fetch (code start 0x0811#16 0x2000#16).pc = .ok 0x0811#16 ∧
      readWord (code start 0x0811#16 0x2000#16) .fetch ((code start 0x0811#16 0x2000#16).pc + 2#16) = .ok 0x2000#16 ∧
      decodeWords 0x0811#16 0x2000#16 = .error .nonZeroField ∧ WordError.nonZeroField ≠ .undefinedOp :=
  ⟨⟨by decide, by decide⟩, by decide, by decide, by decide, by decide⟩

theorem test_witness_MeaninglessWordsRefused_fields :
    (opCell (opRow 0x00#8) (opCol 0x00#8) = some .noOperand ∧ (1#4 : Nibble) ≠ 0#4) ∧
      (opCell (opRow 0xFF#8) (opCol 0xFF#8) = some .noOperand ∧ (15#4 : Nibble) ≠ 0#4) ∧
      (opCell (opRow 0x08#8) (opCol 0x08#8) = some .drct ∧ opCell (opRow 0x9A#8) (opCol 0x9A#8) = some .imm ∧
        opCell (opRow 0xC4#8) (opCol 0xC4#8) = some .oneReg) ∧
      (opCell (opRow 0xA0#8) (opCol 0xA0#8) = some .drct ∧ opRow 0xA0#8 = 20 ∧ (15#4 : Nibble) ≠ 13#4) := by decide

/-- LD with Rd = Fh and with Rs = Fh, and the pairs 1h, Bh, Ch, Dh and Eh of MULL and DIVL: as words, and as terms. -/
theorem test_witness_MeaninglessWordsRefused_registers :
    (decodeCell (opRow (opField 0x0CF0#16)) (opCol (opField 0x0CF0#16)) .reg (rdField 0x0CF0#16) (rxField 0x0CF0#16) 0#16 =
        .ok (.ld .pc (.reg (.g 0))) ∧ (Instr.ld .pc (.reg (.g 0))).usesPc = true ∧ decError 0x0CF0#16 0#16 = some .pcOperand) ∧
      (opCell (opRow 0x0C#8) (opCol 0x0C#8) = some .reg ∧ opCell (opRow 0xA6#8) (opCol 0xA6#8) = some .indr ∧
        opCell (opRow 0xA9#8) (opCol 0xA9#8) = some .idx ∧ decError 0x0C0F#16 0#16 = some .pcOperand ∧
        decError 0xA6FF#16 0#16 = some .pcOperand ∧ decError 0xA90F#16 0#16 = some .pcOperand) ∧
      (decodeCell (opRow (opField 0x6DC1#16)) (opCol (opField 0x6DC1#16)) .imm4 (rdField 0x6DC1#16) (rxField 0x6DC1#16) 0#16 =
        .ok (.mull (.g 12) (.imm4 1#4)) ∧ (Instr.mull (.g 12) (.imm4 1#4)).usesPc = false ∧
        (Instr.mull (.g 12) (.imm4 1#4)).badPair = true) ∧
      (decError 0x6810#16 0#16 = some .badRegisterPair ∧ decError 0x6DB1#16 0#16 = some .badRegisterPair ∧
        decError 0x6DC1#16 0#16 = some .badRegisterPair ∧ decError 0x75D1#16 0#16 = some .badRegisterPair ∧
        decError 0x77E2#16 0#16 = some .badRegisterPair) ∧
      (∀ n : Fin 13, n.val % 2 = 0 → n.val ≤ 10 → Reg.g 12 ≠ .g n) ∧
      ∀ n : Fin 13, n.val % 2 = 0 → n.val ≤ 10 → Reg.g 1 ≠ .g n := by decide

/-- System mode with SSP = E000h and the vector word of SVC 0400h. -/
def trapping : State := (start.setSsp 0xE000#16).storeWord 0xFFFE#16 0x0400#16

theorem test_witness_TrapEntryEffect :
    TrapReady 15 0x0102#16 trapping ∧ TrapReady 15 0xFFFF#16 (trapping.setSsp 0x0004#16) ∧
      ¬ TrapReady 15 0x0102#16 (trapping.setSsp 0xDFFF#16) ∧ ¬ TrapReady 15 0x0102#16 (trapping.setSsp 0xF004#16) :=
  ⟨⟨by decide, by decide, by decide, ⟨by decide, by decide⟩, ⟨by decide, by decide⟩, ⟨by decide, by decide⟩, 0x04#8, 0x00#8,
      by decide, by decide⟩,
    ⟨by decide, by decide, by decide, ⟨by decide, by decide⟩, ⟨by decide, by decide⟩, ⟨by decide, by decide⟩, 0x04#8, 0x00#8,
      by decide, by decide⟩,
    fun h => absurd h.1 (by decide), fun h => absurd h.2.1 (by decide)⟩

theorem test_witness_RetiUndoesTrapEntry :
    (∃ t, trapEntry 15 0x0102#16 trapping = .next t) ∧ regionOf (trapping.ssp - 2#16).toNat ≠ .attrib ∧
      regionOf (trapping.ssp - 4#16).toNat ≠ .attrib :=
  ⟨⟨_, rfl⟩, by decide, by decide⟩

theorem test_witness_ZeroDivideRaised :
    operand start (.imm4 0#4) = .ok 0#16 ∧ Reg.sp ≠ .pc ∧ (Reg.g 10).isPairLow = true := by decide

/-- User mode under other parameters than the recommended ones: LD, ADD and SVC in PRIV_SET, an uninterpreted MEM_PROTECT, P in
USER_RETI_MASK. -/
def otherParams : State :=
  { user with params := { privSet := [.ld, .add, .svc], memProtect := .other 0, userRetiMask := 0x0040#16 } }

/-- With the recommended parameters, and with others, under which LD is privileged and ADD, which never is, is not. -/
theorem test_witness_PrivilegeViolationRaised :
    (privAllowed .ei user = false ∧ privAllowed (.inp (.g 0) (.drct 0#16)) user = false ∧
        privAllowed (.inp (.g 0) (.drct 0#16)) { user with flag := Flags.ofWord 0x0020#16 } = true ∧
        privAllowed (.add (.g 0) (.imm4 1#4)) user = true) ∧
      (privAllowed (.ld (.g 0) (.imm4 1#4)) otherParams = false ∧ privAllowed (.add (.g 0) (.imm4 1#4)) otherParams = true ∧
        privAllowed .svc otherParams = true ∧ privAllowed .ei otherParams = true) := by decide

/-- Of each table that says "None is privileged", and SVC: no PRIV_SET turns one away in user mode (41_arith_logic.md R131 (e),
42_mul_div.md R140 (d), 43_shift.md R150 (c), 44_jump_call.md R160 (g), 47_system.md R195). -/
theorem test_never_privileged (p : Params) (i : Instr)
    (h : i ∈ [.add (.g 0) (.imm4 1#4), .cmp .sp (.imm4 1#4), .adds (.g 0) (.imm4 1#4), .mul (.g 0) (.imm4 1#4),
      .divl (.g 0) (.imm4 1#4), .shla (.g 0) (.imm4 1#4), .shrl (.g 0) (.imm4 1#4), .jmp (.drct 0#16), .call (.drct 0#16), .svc]) :
    privAllowed i { user with params := p } = true := by
  simp only [List.mem_cons, List.not_mem_nil, or_false] at h
  rcases h with rfl | rfl | rfl | rfl | rfl | rfl | rfl | rfl | rfl | rfl <;> rfl

/-- User mode with the limits 0002h and DFFEh, PC and USP at the last word, whose second byte lies outside. -/
def edge : State := { user with lowerLimit := 0x0002#16, upperLimit := 0xDFFE#16, pc := 0xDFFE#16, usp := 0xDFFE#16 }

theorem test_witness_LimitViolationRaised :
    edge.params.memProtect = .recommended ∧ edge.flag.p = false ∧ edge.upperLimit.toNat < (0xDFFF#16 : Word).toNat ∧
      (∀ k, denied edge k 0xDFFF#16 = true) ∧ isOdd 0xDFFE#16 = false ∧ (0xDFFF#16 : Word) = 0xDFFE#16 + 1#16 ∧
      AboutToFetch edge ∧ edge.pc = 0xDFFE#16 ∧ effAddr edge (.drct 0xDFFE#16) = .ok 0xDFFE#16 ∧
      MemEA.isByte (.drct 0xDFFE#16) = false ∧ privAllowed (.st (.g 0) (.drct 0xDFFE#16)) edge = true :=
  ⟨by decide, by decide, by decide, fun k => by cases k <;> decide, by decide, by decide, ⟨by decide, by decide⟩, by decide,
    by decide, by decide, by decide⟩

theorem test_witness_LimitViolationRaised_lower :
    (0x0001#16 : Word).toNat < edge.lowerLimit.toNat ∧ denied (edge.setGr 2 0x0001#16) .read 0x0001#16 = true ∧
      denied (edge.setGr 2 0x0001#16) .write 0x0001#16 = true ∧ isOdd 0x0000#16 = false ∧
      (0x0001#16 : Word) = 0x0000#16 + 1#16 ∧ readReg (edge.setGr 2 0x0001#16) (.g 2) = .ok 0x0001#16 ∧
      twoOperand 8 = some .xor ∧ (Instr.xor (.g 1) (.mem (.bindr (.g 2)))).wellFormed = true ∧
      privAllowed (.xor (.g 1) (.mem (.bindr (.g 2)))) (edge.setGr 2 0x0001#16) = true ∧
      privAllowed (.st (.g 1) (.bindr (.g 2))) (edge.setGr 2 0x0001#16) = true :=
  ⟨by decide, by decide, by decide, by decide, by decide, by decide, rfl, by decide, by decide, by decide⟩

/-- The first word of a two-word ADD stands at DFFCh, the last word that `edge` may fetch but one. -/
def edgeFetch : State := { edge with pc := 0xDFFC#16, upperLimit := 0xDFFD#16 }.storeWord 0xDFFC#16 0x1810#16

theorem test_witness_LimitViolationRaised_secondWord :
    denied edgeFetch .fetch 0xDFFE#16 = true ∧ AboutToFetch edgeFetch ∧
      readWord edgeFetch .fetch edgeFetch.pc = .ok 0x1810#16 ∧ needsSecondWord 0x1810#16 = some true ∧
      edgeFetch.pc + 2#16 = 0xDFFE#16 :=
  ⟨by decide, ⟨by decide, by decide⟩, by decide, by decide, by decide⟩

/-- USP = DFFCh, the last word that `edge` may read whole, with the word 0081h on the stack. -/
def edgeFrame : State := { edge with usp := 0xDFFC#16 }.storeWord 0xDFFC#16 0x0081#16

theorem test_witness_LimitViolationRaised_others :
    (twoOperand 14 = some .divl ∧ (Instr.divl (.g 10) (.mem (.drct 0xDFFE#16))).wellFormed = true ∧
        privAllowed (.divl (.g 10) (.mem (.drct 0xDFFE#16))) edge = true) ∧
      (privAllowed (.pop .sp) edge = true ∧ privAllowed .ret edge = true ∧ privAllowed .reti edge = true ∧
        edge.sp = 0xDFFE#16) ∧
      ((JumpEA.idx 0#16 .usp).usesPc = false ∧ denied (edge.setUsp 0xE000#16) .stack 0xDFFF#16 = true ∧
        privAllowed (.push .usp) (edge.setUsp 0xE000#16) = true ∧ (edge.setUsp 0xE000#16).sp - 2#16 = 0xDFFE#16) ∧
      (denied edgeFrame .stack 0xDFFF#16 = true ∧ privAllowed .reti edgeFrame = true ∧ edgeFrame.sp + 2#16 = 0xDFFE#16 ∧
        ∃ f, readWord edgeFrame .stack edgeFrame.sp = .ok f) :=
  ⟨⟨rfl, by decide, by decide⟩, by decide, by decide, by decide, by decide, by decide, 0x0081#16, by decide⟩

theorem test_witness_MisalignedWordFaults :
    (isOdd 0xFFFF#16 = true ∧ (∀ i, i ∈ [Instr.st (.g 0) (.drct 0xFFFF#16), .mull (.g 0) (.mem (.drct 0xFFFF#16)), .pop .sp, .ret,
          .reti, .push .sp] → privAllowed i (start.setSsp 0xFFFF#16) = true)) ∧
      AboutToFetch { start with pc := 0xFFFF#16 } ∧ effAddr start (.drct 0xFFFF#16) = .ok 0xFFFF#16 ∧
      MemEA.isByte (.drct 0xFFFF#16) = false ∧ (start.setSsp 0xFFFF#16).sp = 0xFFFF#16 ∧ twoOperand 13 = some .mull ∧
      (Instr.mull (.g 0) (.mem (.drct 0xFFFF#16))).wellFormed = true ∧ (JumpEA.indr .sp).usesPc = false :=
  ⟨by decide, ⟨by decide, by decide⟩, by decide, by decide, by decide, rfl, by decide, by decide⟩

/-- The stack clauses are those of PUSH and of CALL. -/
theorem test_witness_RomWritesRefused :
    (0xF000 ≤ (0xF000#16 : Word).toNat ∧ (0xFFDF#16 : Word).toNat ≤ 0xFFDF) ∧
      (effAddr (start.setGr 2 0xFFDF#16) (.bindr (.g 2)) = .ok 0xFFDF#16 ∧ MemEA.isByte (.bindr (.g 2)) = true ∧
        denied (start.setGr 2 0xFFDF#16) .write 0xFFDF#16 = false ∧
        privAllowed (.st (.g 0) (.bindr (.g 2))) (start.setGr 2 0xFFDF#16) = true) ∧
      (effAddr start (.drct 0xF000#16) = .ok 0xF000#16 ∧ WordAllowed start .write 0xF000#16 ∧
        privAllowed (.st (.g 0) (.drct 0xF000#16)) start = true) ∧
      ((start.setSsp 0xFFE0#16).sp - 2#16 = 0xFFDE#16 ∧ WordAllowed (start.setSsp 0xFFE0#16) .stack 0xFFDE#16) ∧
      (Reg.sp ≠ .pc ∧ privAllowed (.push .sp) (start.setSsp 0xFFE0#16) = true) ∧
      (JumpEA.indr .sp).usesPc = false :=
  ⟨by decide, by decide, ⟨by decide, ⟨by decide, by decide, by decide⟩, by decide⟩,
    ⟨by decide, by decide, by decide, by decide⟩, by decide, by decide⟩

theorem test_witness_NoOnlyAdvances : privAllowed .no start = true ∧ privAllowed .no user = true := by decide

/-- G1 = 8000h, G2 = 7FFFh, and the word 5678h at 1234h. -/
def data : State := ((start.setGr 1 0x8000#16).setGr 2 0x7FFF#16).storeWord 0x1234#16 0x5678#16

theorem test_witness_LdEffect : Reg.usp ≠ .pc ∧ operand data (.mem (.drct 0x1234#16)) = .ok 0x5678#16 ∧
    privAllowed (.ld .usp (.mem (.drct 0x1234#16))) data = true := by decide

theorem test_witness_LdFlagEffect : Reg.g 12 ≠ .pc ∧ privAllowed (.ldFlag (.g 12)) start = true ∧ Reg.sp ≠ .pc ∧
    privAllowed (.ldFlag .sp) user = true := by decide

theorem test_witness_StEffect :
    (readReg data (.g 1) = .ok 0x8000#16 ∧ effAddr data (.drct 0xDFFE#16) = .ok 0xDFFE#16 ∧
        MemEA.isByte (.drct 0xDFFE#16) = false ∧ WordWritable data .write 0xDFFE#16 ∧
        privAllowed (.st (.g 1) (.drct 0xDFFE#16)) data = true) ∧
      (effAddr data (.bindr (.g 2)) = .ok 0x7FFF#16 ∧ MemEA.isByte (.bindr (.g 2)) = true ∧
        denied data .write 0x7FFF#16 = false ∧ regionOf (0x7FFF#16 : Word).toNat ≠ .rom ∧
        regionOf (0x7FFF#16 : Word).toNat ≠ .attrib ∧ privAllowed (.st (.g 1) (.bindr (.g 2))) data = true) :=
  ⟨⟨by decide, by decide, by decide, ⟨⟨by decide, by decide, by decide⟩, by decide⟩, by decide⟩, by decide⟩

/-- Of AddEffect, SubEffect, CmpEffect, LogicAndMulEffect and ShiftEffect. -/
theorem test_witness_TwoOperands :
    (readReg data (.g 1) = .ok 0x8000#16 ∧ operand data (.reg (.g 2)) = .ok 0x7FFF#16) ∧
      (readReg data .sp = .ok 0#16 ∧ operand data (.mem (.drct 0x1234#16)) = .ok 0x5678#16) ∧
      ((0#16 : Word).toNat ≤ 15 ∧ (15#16 : Word).toNat ≤ 15) := by decide

theorem test_witness_ComparisonTable :
    readReg data (.g 1) = .ok 0x8000#16 ∧ operand data (.reg (.g 2)) = .ok 0x7FFF#16 ∧
      ∃ t, exec (.cmp (.g 1) (.reg (.g 2))) data = .next t ∧ jumpTarget t (.drct 0x0200#16) = .ok 0x0200#16 :=
  ⟨by decide, by decide, _, rfl, rfl⟩

theorem test_witness_DivModEffect :
    ((0x7FFF#16 : Word).toNat < 0x8000 ∧ (1#16 : Word).toNat < 0x8000 ∧ (1#16 : Word) ≠ 0#16) ∧
      (readReg data (.g 1) = .ok 0x8000#16 ∧ operand data (.reg (.g 2)) = .ok 0x7FFF#16 ∧ (0x7FFF#16 : Word) ≠ 0#16) := by
  decide

theorem test_witness_MullEffect :
    (10 : Fin 13).val % 2 = 0 ∧ (10 : Fin 13).val ≤ 10 ∧ (11 : Fin 13).val = (10 : Fin 13).val + 1 ∧
      operand data (.reg (.g 2)) = .ok 0x7FFF#16 ∧ (0x7FFF#16 : Word).toNat < 0x8000 := by decide

theorem test_witness_DivlEffect :
    ((0x3FFF7FFF#32).toNat < 0x80000000 ∧ (0x7FFF#16 : Word).toNat < 0x8000 ∧ (0x7FFF#16 : Word) ≠ 0#16 ∧
        (0x3FFF7FFF#32).toNat / (0x7FFF#16 : Word).toNat ≤ 0x7FFF) ∧
      (0 : Fin 13).val % 2 = 0 ∧ (0 : Fin 13).val ≤ 10 ∧ (1 : Fin 13).val = (0 : Fin 13).val + 1 ∧
      operand data (.reg (.g 2)) = .ok 0x7FFF#16 := by decide

theorem test_witness_DivlUndoesMull :
    (data.gr[(10 : Fin 13)].toNat < 0x8000 ∧ (0x7FFF#16 : Word).toNat < 0x8000 ∧ (0x7FFF#16 : Word) ≠ 0#16) ∧
      operand data (.reg (.g 2)) = .ok 0x7FFF#16 ∧
      ∃ t, exec (.mull (.g 10) (.reg (.g 2))) data = .next t ∧ operand t (.reg (.g 2)) = .ok 0x7FFF#16 :=
  ⟨by decide, by decide, _, rfl, by decide⟩

theorem test_witness_ConditionalJumps :
    ([Instr.jz, Instr.jc, Instr.jm, Instr.jo, Instr.jgt, Instr.jge, Instr.jle, Instr.jlt][0]? = some Instr.jz ∧
        [Instr.jz, Instr.jc, Instr.jm, Instr.jo, Instr.jgt, Instr.jge, Instr.jle, Instr.jlt][7]? = some Instr.jlt) ∧
      ([none, none, none, none, none, none, none, none, some Instr.jnz, some Instr.jnc, some Instr.jnm, some Instr.jno,
          some Instr.jhi, none, some Instr.jls, some Instr.jmp][8]? = some (some Instr.jnz) ∧
        [none, none, none, none, none, none, none, none, some Instr.jnz, some Instr.jnc, some Instr.jnm, some Instr.jno,
          some Instr.jhi, none, some Instr.jls, some Instr.jmp][15]? = some (some Instr.jmp)) ∧
      (14#4 : Nibble) ≠ 15#4 ∧ JumpEA.usesPc (.idx 0xFFFF#16 .usp) = false :=
  ⟨⟨rfl, rfl⟩, ⟨rfl, rfl⟩, by decide, by decide⟩

theorem test_witness_CallEffect :
    jumpTarget trapping (.drct 0x0200#16) = .ok 0x0200#16 ∧ WordWritable trapping .stack (trapping.sp - 2#16) ∧
      WordWritable start .stack (start.sp - 2#16) ∧ WordWritable user .stack (user.sp - 2#16) :=
  ⟨by decide, ⟨⟨by decide, by decide, by decide⟩, by decide⟩, ⟨⟨by decide, by decide, by decide⟩, by decide⟩,
    ⟨⟨by decide, by decide, by decide⟩, by decide⟩⟩

theorem test_witness_PopUndoesPush :
    WordAllowed trapping .stack (trapping.sp - 2#16) ∧ regionOf (trapping.sp - 2#16).toNat ≠ .attrib ∧
      (privAllowed (.push .sp) trapping = true ∧ privAllowed (.pop .sp) trapping = true ∧ privAllowed .ret trapping = true) ∧
      (∃ t, exec (.push .sp) trapping = .next t) ∧ ∃ t, exec (.call (.drct 0x0200#16)) trapping = .next t :=
  ⟨⟨by decide, by decide, by decide⟩, by decide, by decide, ⟨_, rfl⟩, ⟨_, rfl⟩⟩

theorem test_witness_InEffect :
    (Reg.g 1 ≠ .pc ∧ privAllowed (.inp (.g 1) (.drct 0x0026#16)) start = true ∧
        privAllowed (.inp (.g 1) (.bindr (.g 2))) (start.setGr 2 0x00FF#16) = true) ∧
      (portAddr start (.drct 0x0026#16) = .ok 0x0026#16 ∧ PortEA.width (.drct 0x0026#16) = .word ∧
        IoAddressable (PortEA.width (.drct 0x0026#16)) 0x0026#16) ∧
      (portAddr (start.setGr 2 0x00FF#16) (.bindr (.g 2)) = .ok 0x00FF#16 ∧ PortEA.width (.bindr (.g 2)) = .byte ∧
        IoAddressable (PortEA.width (.bindr (.g 2))) 0x00FF#16) :=
  ⟨by decide, ⟨by decide, by decide, ⟨by decide, by decide⟩⟩, ⟨by decide, by decide, ⟨by decide, by decide⟩⟩⟩

theorem test_witness_OutEffect :
    (readReg data (.g 1) = .ok 0x8000#16 ∧ privAllowed (.outp (.g 1) (.drct 0x00F4#16)) data = true ∧
        privAllowed (.outp (.g 1) (.bindr (.g 2))) (start.setGr 2 0x0027#16) = true) ∧
      (portAddr data (.drct 0x00F4#16) = .ok 0x00F4#16 ∧ IoAddressable (PortEA.width (.drct 0x00F4#16)) 0x00F4#16 ∧
        ioHitsReadOnly (PortEA.width (.drct 0x00F4#16)) 0x00F4#16 = false) ∧
      (portAddr (start.setGr 2 0x0027#16) (.bindr (.g 2)) = .ok 0x0027#16 ∧
        IoAddressable (PortEA.width (.bindr (.g 2))) 0x0027#16 ∧
        ioHitsReadOnly (PortEA.width (.bindr (.g 2))) 0x0027#16 = false) :=
  ⟨by decide, ⟨by decide, ⟨by decide, by decide⟩, by decide⟩, ⟨by decide, ⟨by decide, by decide⟩, by decide⟩⟩

theorem test_witness_LimitRegisters :
    (privAllowed (.outp (.g 0) (.drct 0x00F4#16)) start = true ∧ privAllowed (.outp (.g 0) (.drct 0x00F6#16)) start = true ∧
        privAllowed (.inp (.g 0) (.drct 0x00F4#16)) start = true ∧ readReg start (.g 0) = .ok 0#16 ∧
        PortEA.width (.drct 0x00F4#16) = .word ∧
        portAddr start (.drct 0x00F4#16) = .ok 0x00F4#16 ∧ PortEA.width (.drct 0x00F6#16) = .word ∧
        portAddr start (.drct 0x00F6#16) = .ok 0x00F6#16) ∧ Reg.g 0 ≠ .pc := by decide

theorem test_witness_IoRefusals :
    (∀ a : Word, privAllowed (.inp (.g 0) (.drct a)) start = true ∧ privAllowed (.outp (.g 0) (.drct a)) start = true) ∧
      Reg.g 0 ≠ .pc ∧
      (portAddr start (.drct 0x0027#16) = .ok 0x0027#16 ∧ PortEA.width (.drct 0x0027#16) = .word ∧
        isOdd 0x0027#16 = true) ∧
      (portAddr start (.drct 0x0028#16) = .ok 0x0028#16 ∧ isOdd 0x0028#16 = false ∧ 0x28 ≤ (0x0028#16 : Word).toNat ∧
        (0x0028#16 : Word).toNat ≤ 0xF3 ∧ 0xFF < (0x0100#16 : Word).toNat) ∧
      (portAddr start (.drct 0x00FE#16) = .ok 0x00FE#16 ∧ IoAddressable (PortEA.width (.drct 0x00FE#16)) 0x00FE#16 ∧
        ioHitsReadOnly (PortEA.width (.drct 0x00FE#16)) 0x00FE#16 = true) :=
  ⟨fun _ => ⟨rfl, rfl⟩, by decide, by decide, by decide, by decide, ⟨by decide, by decide⟩, by decide⟩

theorem test_witness_PushRegEffect :
    readReg trapping .sp = .ok 0xE000#16 ∧ WordWritable trapping .stack (trapping.sp - 2#16) ∧
      privAllowed (.push .sp) trapping = true :=
  ⟨by decide, ⟨⟨by decide, by decide, by decide⟩, by decide⟩, by decide⟩

/-- SSP = DFFCh with the words 0081h and 0300h on the stack. -/
def framed : State := ((start.setSsp 0xDFFC#16).storeWord 0xDFFC#16 0x0081#16).storeWord 0xDFFE#16 0x0300#16

/-- Of PopRegEffect, RetEffect and RetiEffect, in both modes. -/
theorem test_witness_PopRetReti :
    Reg.sp ≠ .pc ∧ framed.flag.p = true ∧ readWord framed .stack framed.sp = .ok 0x0081#16 ∧
      readWord framed .stack (framed.sp + 2#16) = .ok 0x0300#16 ∧
      (privAllowed (.pop .sp) framed = true ∧ privAllowed .ret framed = true ∧ privAllowed .reti framed = true) ∧
      (∀ s : State, s = ((user.setUsp 0xDFFC#16).storeWord 0xDFFC#16 0x0081#16).storeWord 0xDFFE#16 0x0300#16 →
        s.flag.p = false ∧ readWord s .stack s.sp = .ok 0x0081#16 ∧ readWord s .stack (s.sp + 2#16) = .ok 0x0300#16 ∧
          privAllowed .reti s = true ∧ s.params.userRetiMask = Params.recommended.userRetiMask) := by
  refine ⟨by decide, by decide, by decide, by decide, by decide, ?_⟩
  rintro s rfl
  decide

/-- Of EiDiEffect and HaltEffect. -/
theorem test_witness_EiDiHalt :
    privAllowed .ei start = true ∧ privAllowed .di start = true ∧ privAllowed .halt start = true ∧
      (start.setHalted).halted = true := by decide

theorem test_witness_SvcEffect : TrapReady 15 (trapping.pc + 2#16) trapping :=
  ⟨by decide, by decide, by decide, ⟨by decide, by decide⟩, ⟨by decide, by decide⟩, ⟨by decide, by decide⟩, 0x04#8, 0x00#8,
    by decide, by decide⟩

/-- Of StepKeepsInv, StepKeepsRom and StepKeepsParams. -/
theorem test_witness_StepKeeps :
    Inv (code start 0x1020#16 0x4000#16) ∧ ∃ t, step (code start 0x1020#16 0x4000#16) = .next t :=
  ⟨rfl, _, rfl⟩

theorem test_witness_ModeChanges_up :
    user.flag.p = false ∧ ∃ t, step ((code user 0xF000#16 0#16).storeWord 0xFFFE#16 0x0400#16) = .next t ∧ t.flag.p = true :=
  ⟨by decide, _, rfl, rfl⟩

/-- USER_RETI_MASK names P: RETI in user mode raises it. -/
theorem test_witness_ModeChanges_mask :
    ∃ s, s.flag.p = false ∧ s.params.userRetiMask.getLsbD 6 = true ∧
      ∃ t, step (code s 0xD400#16 0#16) = .next t ∧ t.flag.p = true :=
  ⟨(({ user with params := { Params.recommended with userRetiMask := 0x0040#16 } } : State).storeWord 0xC000#16 0x0040#16).storeWord
    0xC002#16 0x0300#16, by decide, by decide, _, rfl, rfl⟩

theorem test_witness_ModeChanges_down :
    framed.flag.p = true ∧ ∃ t, step (code framed 0xD400#16 0#16) = .next t ∧ t.flag.p = false :=
  ⟨by decide, _, rfl, rfl⟩

/-- Of UserModeConfined and UserModeIgnoresSsp: user mode executes ST G2,4000h; E000h lies outside the limits. -/
theorem test_witness_UserMode :
    user.flag.p = false ∧ user.flag.i = false ∧ user.params = Params.recommended ∧
      user.upperLimit.toNat < (0xE000#16 : Word).toNat ∧ denied user .write 0xE000#16 = true ∧
      denied user .stack 0xE000#16 = true ∧ writeReg user (.ofNum 13#4) 5#16 = .ok { user with usp := 5#16 } ∧
      ∃ t, step (code user 0x1020#16 0x4000#16) = .next t ∧ t.flag.p = false :=
  ⟨by decide, by decide, by decide, by decide, by decide, by decide, by decide, _, rfl, rfl⟩

theorem test_witness_FlagWriters :
    (∃ t, exec (.ld (.g 1) (.imm 0#16)) start = .next t) ∧ writesCond (.ld (.g 1) (.imm 0#16)) = false ∧
      ∃ t, exec .reti framed = .next t :=
  ⟨⟨_, rfl⟩, by decide, ⟨_, rfl⟩⟩

theorem test_witness_MemoryAndIoWriters :
    (∃ t, exec (.st (.g 2) (.drct 0x4000#16)) start = .next t ∧ t.mem ≠ start.mem) ∧
      ∃ t, exec (.outp (.g 0) (.drct 0x0008#16)) start = .next t ∧ t.ioLog ≠ start.ioLog :=
  ⟨⟨_, rfl, by decide⟩, ⟨_, rfl, by decide⟩⟩

end Sys2Proof.Tests
end

-- Family 00_scope.md: what no step changes (R5).
section
/-! SUPPORT. PRIV_SET, MEM_PROTECT and USER_RETI_MASK are kept by every shared operation that writes state, by every instruction
and by every step (00_scope.md R5). -/

namespace Sys2Proof.Machine

/-- No register number names a parameter (10_state.md R24). -/
theorem writeReg_params {s t : State} {r : Reg} {v : Word} (h : writeReg s r v = .ok t) : t.params = s.params := by
  obtain ⟨-, -, -, -, -, -, -, -, -, hparams⟩ := writeReg_frame h
  exact hparams

/-- A write of the limit ports keeps the parameters: MEM_PROTECT reads the limits, but is not one of them. -/
@[simp] theorem ioLimits_params (s : State) (w : IoWidth) (a v : Word) : (ioLimits s w a v).params = s.params := by
  obtain ⟨-, -, -, -, -, -, -, -, -, -, hparams⟩ := ioLimits_frame s w a v
  exact hparams

/-- Trap entry changes P and E, but not what they are checked against. -/
theorem trapEntry_params {n : Fin 16} {spc : Word} {s t : State} (h : trapEntry n spc s = .next t) :
    t.params = s.params := by
  obtain ⟨-, -, -, -, -, -, -, -, -, -, hparams, -⟩ := trapEntry_next h
  exact hparams

/-- Each form an instruction's effect can take is a chain of register, flag, memory and I/O updates, none of which reaches the
parameters. -/
theorem Effect.params_eq {i : Instr} {s t : State} (h : Effect i s t) : t.params = s.params := by
  cases h with
  | trap n spc h => exact trapEntry_params h
  | reg u rd v f pc hw ht => simpa [ht] using writeReg_params hw
  | pair u u' rd rd' v v' f pc hw hw' ht => simpa [ht] using (writeReg_params hw').trans (writeReg_params hw)
  | plain f pc ht => simp [ht]
  | enable e pc hp ht => simp [ht]
  | halt hp ht => simp [ht]
  | reti hi f v hf hv ht => simp [ht]
  | pop sp' rd v u pc hw ht =>
    obtain ⟨-, rfl⟩ | ⟨r, -, hw⟩ := hw
    · simp [ht]
    · simpa [ht] using writeReg_params hw
  | push v pc hw ht => simp [ht]
  | storeWord a v pc hw ht => simp [ht]
  | storeByte a v pc hw hr ht => simp [ht]
  | inp rd ea e v u pc hi hp hw ht => simpa [ht] using writeReg_params hw
  | outp rd ea e w a v pc hi hp ht => simp [ht]

/-- Settles O60: a step is trap entry or one instruction, then the devices' move, and each keeps the parameters. -/
theorem stepKeepsParams : Obligations.StepKeepsParams := by
  intro s t h
  obtain ⟨-, u, rfl, ⟨n, spc, htrap⟩ | ⟨-, i, -, hexec⟩⟩ := step_next h
  · rw [endStep_params]; exact trapEntry_params htrap
  · rw [endStep_params]; exact (exec_effect hexec).params_eq

end Sys2Proof.Machine
end

-- Family 10_state.md: the register numbers (R20 to R25), FLAG and what writes it (R28, R31, R33), and the reset values (R39).
section
/-! SUPPORT. Register writes by the register table, the bits of FLAG, the conditions of the jumps after CMP, and what each form of
an instruction's effect does to FLAG (10_state.md R23, R24, R28, R31, R33). -/

namespace Sys2Proof.Machine

/-! ### Register numbers -/

theorem ofNum_of_toNat_eq {k : Nibble} {n : Fin 13} (h : k.toNat = n.val) : Reg.ofNum k = .g n := by
  have hlt : k.toNat < 13 := by omega
  rw [Reg.ofNum, dif_pos hlt]
  exact congrArg Reg.g (Fin.ext h)

/-- A register write does what the register table says (10_state.md R24). -/
theorem writeReg_regsAfterWrite {s t : State} {r : Reg} {v : Word} (h : writeReg s r v = .ok t) :
    RegsAfterWrite r v s t := by
  obtain ⟨n, rfl, rfl⟩ | ⟨rfl, rfl⟩ | ⟨rfl, rfl⟩ := writeReg_eq_ok h
  · refine ⟨fun k => ?_, by simp, by simp⟩
    simp only [State.setGr_getElem, Reg.g.injEq, eq_comm]
  · cases hp : s.flag.p <;> exact ⟨by simp, by simp [hp], by simp [hp]⟩
  · exact ⟨by simp, by simp, by simp⟩

theorem sp_of_privileged {s : State} (hp : s.flag.p = true) : s.sp = s.ssp := by simp [State.sp, hp]

theorem sp_of_user {s : State} (hp : s.flag.p = false) : s.sp = s.usp := by simp [State.sp, hp]

theorem setSp_of_privileged {s : State} (hp : s.flag.p = true) (v : Word) : s.setSp v = s.setSsp v := by
  simp [State.setSp, hp]

theorem setSp_of_user {s : State} (hp : s.flag.p = false) (v : Word) : s.setSp v = s.setUsp v := by
  simp [State.setSp, hp]

/-- Settles O7: a G register reads back what was written to it, and SP is the stack pointer that P selects. -/
theorem registerNumbers : Obligations.RegisterNumbers := by
  refine ⟨by decide, fun s v => ⟨fun k n hk => ?_, fun hp => ?_, fun hp => ?_⟩⟩
  · rw [ofNum_of_toNat_eq hk]
    refine ⟨rfl, rfl, _, rfl, ?_, writeReg_regsAfterWrite rfl⟩
    simp [readReg]
  · exact ⟨congrArg Res.ok (sp_of_privileged hp), sp_of_privileged hp,
      congrArg Res.ok (setSp_of_privileged hp v), setSp_of_privileged hp v⟩
  · exact ⟨congrArg Res.ok (sp_of_user hp), sp_of_user hp, congrArg Res.ok (setSp_of_user hp v), setSp_of_user hp v⟩

/-! ### FLAG as a word -/

/-- Settles O8: the bits of the FLAG word, one by one below bit 8; from there up they read 0. -/
theorem flagLayout : Obligations.FlagLayout := by
  intro f k
  have hupper : f.toWord.getLsbD k = _ := BitVec.getLsbD_append (x := 0#8)
  rw [hupper]
  simp only [BitVec.getLsbD_append]
  match k with
  | 0 | 1 | 2 | 3 | 4 | 5 | 6 | 7 => simp
  | k + 8 => simp

/-! ### The comparison table -/

theorem zeroFlag_sub (a b : Word) : zeroFlag (a - b) = decide (a = b) := by
  have h : a - b = 0#16 ↔ a = b := by bv_omega
  simp [zeroFlag, h, Bool.beq_eq_decide_eq]

/-- S xor V after CMP: the difference has the wrong sign exactly when it overflows, so this is the signed order. -/
theorem signBit_sub_xor_subOverflow (a b : Word) :
    (signBit (a - b) ^^ subOverflow a b (a - b)) = decide (a.toInt < b.toInt) := by
  have hsign (x : Word) : signBit x = decide (32768 ≤ x.toNat) := BitVec.msb_eq_decide x
  have hdiff : (a - b).toNat = (a.toNat + (65536 - b.toNat)) % 65536 := by rw [BitVec.toNat_sub, Nat.add_comm]
  simp only [subOverflow, hsign, BitVec.toInt_eq_toNat_cond, hdiff]
  rw [Bool.eq_iff_iff]
  by_cases ha : 32768 ≤ a.toNat <;> by_cases hb : 32768 ≤ b.toNat <;> simp [ha, hb] <;> split <;> omega

section
variable (f : Flags) (a b : Word)

theorem condJlt_subFlags : condJlt (subFlags f a b (a - b)) = decide (a.toInt < b.toInt) :=
  signBit_sub_xor_subOverflow a b

theorem condJge_subFlags : condJge (subFlags f a b (a - b)) = decide (b.toInt ≤ a.toInt) := by
  have h : condJge (subFlags f a b (a - b)) = !condJlt (subFlags f a b (a - b)) := rfl
  rw [h, condJlt_subFlags, ← decide_not, decide_eq_decide, Int.not_lt]

theorem condJz_subFlags : condJz (subFlags f a b (a - b)) = decide (a = b) := zeroFlag_sub a b

theorem condJle_subFlags : condJle (subFlags f a b (a - b)) = decide (a.toInt ≤ b.toInt) := by
  have h : condJle (subFlags f a b (a - b)) = (condJz (subFlags f a b (a - b)) || condJlt (subFlags f a b (a - b))) := rfl
  rw [h, condJz_subFlags, condJlt_subFlags, ← Bool.decide_or, decide_eq_decide, ← BitVec.toInt_inj]
  omega

theorem condJgt_subFlags : condJgt (subFlags f a b (a - b)) = decide (b.toInt < a.toInt) := by
  have h : condJgt (subFlags f a b (a - b)) = !condJle (subFlags f a b (a - b)) := rfl
  rw [h, condJle_subFlags, ← decide_not, decide_eq_decide, Int.not_le]

theorem condJc_subFlags : condJc (subFlags f a b (a - b)) = decide (a.toNat < b.toNat) := rfl

theorem condJnc_subFlags : condJnc (subFlags f a b (a - b)) = decide (b.toNat ≤ a.toNat) := by
  have h : condJnc (subFlags f a b (a - b)) = !condJc (subFlags f a b (a - b)) := rfl
  rw [h, condJc_subFlags, ← decide_not, decide_eq_decide, Nat.not_lt]

theorem condJls_subFlags : condJls (subFlags f a b (a - b)) = decide (a.toNat ≤ b.toNat) := by
  have h : condJls (subFlags f a b (a - b)) = (condJz (subFlags f a b (a - b)) || condJc (subFlags f a b (a - b))) := rfl
  rw [h, condJz_subFlags, condJc_subFlags, ← Bool.decide_or, decide_eq_decide, ← BitVec.toNat_inj]
  omega

theorem condJhi_subFlags : condJhi (subFlags f a b (a - b)) = decide (b.toNat < a.toNat) := by
  have h : condJhi (subFlags f a b (a - b)) = !condJls (subFlags f a b (a - b)) := rfl
  rw [h, condJls_subFlags, ← decide_not, decide_eq_decide, Nat.not_le]

theorem condJnz_subFlags : condJnz (subFlags f a b (a - b)) = decide (a ≠ b) := by
  have h : condJnz (subFlags f a b (a - b)) = !condJz (subFlags f a b (a - b)) := rfl
  rw [h, condJz_subFlags, ← decide_not]

end

/-- CMP with operands that can be read sets the flags of the subtraction and advances PC (41_arith_logic.md R134). -/
theorem exec_cmp {rd : Reg} {ea : EA} {s : State} {a b : Word} (ha : readReg s rd = .ok a) (hb : operand s ea = .ok b) :
    exec (.cmp rd ea) s =
      .next ((s.setFlag (subFlags s.flag a b (a - b))).setPc (nextPc (.cmp rd ea) s)) := by
  change execCmp rd ea s = _
  rw [execCmp, ha, Res.bind_ok, hb, Res.map_ok]
  exact performSeq_ok (privAllowed_of_neverPrivileged rfl s)

/-- A jump whose target can be read and whose condition is the relation `P` selects by `P` (44_jump_call.md R160). -/
theorem perform_jumpEffect {i : Instr} {j : JumpEA} {t : State} {target : Word} {c : Bool} {P : Prop} [Decidable P]
    (hi : neverPrivileged (instrName i) = true) (htarget : jumpTarget t j = .ok target) (hc : c = decide P) :
    perform i t (jumpEffect i j t c) = .next (t.setPc (if P then target else nextPc i t)) := by
  rw [jumpEffect, htarget, Res.map_ok, perform_ok (privAllowed_of_neverPrivileged hi t), hc]
  simp only [decide_eq_true_eq]

/-- Settles O29: in the state CMP leaves, each condition is its relation of the operands, and the jump goes where it says. -/
theorem comparisonTable : Obligations.ComparisonTable := by
  intro rd ea s t a b target j ha hb hcmp htarget
  have hflag : t.flag = subFlags s.flag a b (a - b) := by
    obtain rfl : _ = t := Host.Outcome.next.inj ((exec_cmp ha hb).symm.trans hcmp)
    rfl
  have goes {i : Instr} {c : Flags → Bool} {P : Prop} [Decidable P] (hi : neverPrivileged (instrName i) = true)
      (hc : c (subFlags s.flag a b (a - b)) = decide P) :
      perform i t (jumpEffect i j t (c t.flag)) = .next (t.setPc (if P then target else nextPc i t)) :=
    perform_jumpEffect hi htarget (hflag ▸ hc)
  exact ⟨goes rfl (condJgt_subFlags ..), goes rfl (condJge_subFlags ..),
    goes rfl (condJle_subFlags ..), goes rfl (condJlt_subFlags ..),
    goes rfl (condJhi_subFlags ..), goes rfl (condJnc_subFlags ..),
    goes rfl (condJls_subFlags ..), goes rfl (condJc_subFlags ..),
    goes rfl (condJz_subFlags ..), goes rfl (condJnz_subFlags ..)⟩

/-! ### What writes FLAG -/

/-- What an instruction other than by trap entry may do to FLAG (10_state.md R31). -/
def FlagWrite (i : Instr) (s t : State) : Prop :=
  (writesCond i = false → i ≠ .reti →
      t.flag.v = s.flag.v ∧ t.flag.c = s.flag.c ∧ t.flag.s = s.flag.s ∧ t.flag.z = s.flag.z) ∧
    (i ≠ .ei → i ≠ .di → i ≠ .reti → t.flag.e = s.flag.e) ∧
    (i ≠ .reti → t.flag.p = s.flag.p ∧ t.flag.i = s.flag.i)

theorem flagWrite_of_kept {i : Instr} {s t : State} (h : t.flag = s.flag) : FlagWrite i s t := by
  unfold FlagWrite; rw [h]; simp

theorem flagWrite_of_circle {i : Instr} {s t : State} (hc : writesCond i = true) (he : t.flag.e = s.flag.e)
    (hp : t.flag.p = s.flag.p) (hi : t.flag.i = s.flag.i) : FlagWrite i s t :=
  ⟨fun hn => absurd hc (by simp [hn]), fun _ _ _ => he, fun _ => ⟨hp, hi⟩⟩

theorem flagWrite_of_condFlagsOnly {i : Instr} {s t : State} (h : CondFlagsOnly i s t.flag) : FlagWrite i s t := by
  obtain ⟨-, hkept⟩ | ⟨hc, he, hp, hi⟩ := h
  · exact flagWrite_of_kept hkept
  · exact flagWrite_of_circle hc he hp hi

theorem writeReg_flag {s t : State} {r : Reg} {v : Word} (h : writeReg s r v = .ok t) : t.flag = s.flag := by
  obtain ⟨-, hflag, -⟩ := writeReg_frame h
  exact hflag

/-- Each form of an instruction's effect but trap entry keeps FLAG, or is one of the writers of 10_state.md R31. -/
theorem Effect.flagWrite {i : Instr} {s t : State} (h : Effect i s t) :
    (∃ n spc, trapEntry n spc s = .next t) ∨ FlagWrite i s t := by
  cases h with
  | trap n spc h => exact .inl ⟨n, spc, h⟩
  | reg u rd v f pc hw ht hf => exact .inr (flagWrite_of_condFlagsOnly (by simpa [ht] using hf))
  | pair u u' rd rd' v v' f pc hw hw' ht hf =>
    obtain ⟨hc, he, hp, hi⟩ := hf
    subst ht
    exact .inr (flagWrite_of_circle hc he hp hi)
  | plain f pc ht hf => exact .inr (flagWrite_of_condFlagsOnly (by simpa [ht] using hf))
  | enable e pc hp ht hi =>
    subst ht
    exact .inr ⟨fun _ _ => ⟨rfl, rfl, rfl, rfl⟩, fun hei hdi => absurd hi (by simp [hei, hdi]), fun _ => ⟨rfl, rfl⟩⟩
  | halt hp ht => exact .inr (flagWrite_of_kept (by simp [ht]))
  | reti hi => exact .inr ⟨fun _ hn => absurd hi hn, fun _ _ hn => absurd hi hn, fun hn => absurd hi hn⟩
  | pop sp' rd v u pc hw ht =>
    have hu : u.flag = s.flag := by
      obtain ⟨-, rfl⟩ | ⟨r, -, hw⟩ := hw
      · simp
      · simpa using writeReg_flag hw
    exact .inr (flagWrite_of_kept (by simp [ht, hu]))
  | push v pc hw ht => exact .inr (flagWrite_of_kept (by simp [ht]))
  | storeWord a v pc hw ht => exact .inr (flagWrite_of_kept (by simp [ht]))
  | storeByte a v pc hw hr ht => exact .inr (flagWrite_of_kept (by simp [ht]))
  | inp rd ea e v u pc hi hp hw ht => exact .inr (flagWrite_of_kept (by simpa [ht] using writeReg_flag hw))
  | outp rd ea e w a v pc hi hp ht =>
    obtain ⟨-, -, -, -, hflag, -⟩ := ioLimits_frame s w a v
    exact .inr (flagWrite_of_kept (by simp [ht, hflag]))

/-- Settles O57, from what an instruction can do when it completes. -/
theorem flagWriters : Obligations.FlagWriters :=
  fun _ _ _ h => (exec_effect h).flagWrite

/-! ### Reset -/

/-- Settles O59: the fields of the reset state; its memory is the empty list. -/
theorem resetState : Obligations.ResetState :=
  ⟨rfl, by decide, rfl, rfl, rfl, fun _ => rfl⟩

end Sys2Proof.Machine
end

-- Family 10_state.md: in user mode nothing reads or writes SSP (R25).
section
/-! SUPPORT. With P = 0 every shared operation and every instruction commutes with a change of SSP: run on a state with another
value in SSP, it ends in the same state but for that value (10_state.md R25; 60_exceptions.md R216). -/

namespace Sys2Proof.Machine

/-! ### Sequences of operations -/

theorem Res.bind_map {α β γ : Type} (x : Res α) (f : α → β) (k : β → Res γ) :
    (x.map f).bind k = x.bind fun a => k (f a) := by
  cases x <;> rfl

theorem Res.map_bind {α β γ : Type} (x : Res α) (k : α → Res β) (f : β → γ) :
    (x.bind k).map f = x.bind fun a => (k a).map f := by
  cases x <;> rfl

theorem Res.map_map {α β γ : Type} (x : Res α) (f : α → β) (g : β → γ) : (x.map f).map g = x.map fun a => g (f a) := by
  cases x <;> rfl

/-- Two sequences with the same first part are equal when they go on alike from the value it answers. -/
theorem Res.bind_congr_ok {α β : Type} {x : Res α} {k k' : α → Res β} (h : ∀ a, x = .ok a → k a = k' a) :
    x.bind k = x.bind k' := by
  cases x with
  | ok a => exact h a rfl
  | raise e => rfl
  | fault f => rfl
  | refused r => rfl

/-! ### What reads no stack pointer ignores SSP in every mode -/

theorem privAllowed_setSsp (i : Instr) (s : State) (v : Word) : privAllowed i (s.setSsp v) = privAllowed i s := rfl

theorem nextPc_setSsp (i : Instr) (s : State) (v : Word) : nextPc i (s.setSsp v) = nextPc i s := rfl

theorem pendingInterrupt_setSsp (s : State) (v : Word) : pendingInterrupt (s.setSsp v) = pendingInterrupt s := rfl

theorem readByte_setSsp (s : State) (v : Word) (k : AccessKind) (a : Word) :
    readByte (s.setSsp v) k a = readByte s k a := rfl

theorem readWord_setSsp (s : State) (v : Word) (k : AccessKind) (a : Word) :
    readWord (s.setSsp v) k a = readWord s k a := rfl

theorem writeByte_setSsp (s : State) (v : Word) (k : AccessKind) (a : Word) (b : Byte) :
    writeByte (s.setSsp v) k a b = (writeByte s k a b).map fun t => t.setSsp v := by
  have hd : denied (s.setSsp v) k a = denied s k a := rfl
  unfold writeByte
  rw [hd]
  split
  · rfl
  · split <;> rfl

theorem writeWord_setSsp (s : State) (v : Word) (k : AccessKind) (a w : Word) :
    writeWord (s.setSsp v) k a w = (writeWord s k a w).map fun t => t.setSsp v := by
  have hd (b : Word) : denied (s.setSsp v) k b = denied s k b := rfl
  unfold writeWord
  rw [hd, hd]
  split
  · rfl
  · split
    · rfl
    · split <;> rfl

theorem ioRead_setSsp (s : State) (v : Word) (w : IoWidth) (a : Word) :
    ioRead (s.setSsp v) w a = (ioRead s w a).map fun r => (r.1, r.2.setSsp v) := by
  unfold ioRead
  rw [Res.map_map]
  rfl

theorem ioLimits_setSsp (s : State) (v : Word) (w : IoWidth) (a x : Word) :
    ioLimits (s.setSsp v) w a x = (ioLimits s w a x).setSsp v := by
  unfold ioLimits
  cases w <;> dsimp only <;> split
  · rfl
  · split <;> rfl
  · rfl
  · split <;> rfl

theorem ioWrite_setSsp (s : State) (v : Word) (w : IoWidth) (a x : Word) :
    ioWrite (s.setSsp v) w a x = (ioWrite s w a x).map fun t => t.setSsp v := by
  unfold ioWrite
  rw [Res.map_bind]
  refine Res.bind_congr_ok fun _ _ => ?_
  split
  · rfl
  · rw [ioLimits_setSsp]; rfl

/-! ### With P = 0 the stack pointer is USP, and every operation ignores SSP -/

section
variable {s : State} (hp : s.flag.p = false) (v : Word)
include hp

theorem sp_setSsp : (s.setSsp v).sp = s.sp := by simp [State.sp, hp]

theorem setSp_setSsp (w : Word) : (s.setSsp v).setSp w = (s.setSp w).setSsp v := by
  unfold State.setSp; rw [State.setSsp_flag, hp]; rfl

theorem readReg_setSsp (r : Reg) : readReg (s.setSsp v) r = readReg s r := by
  cases r with
  | g n => rfl
  | sp => exact congrArg Res.ok (sp_setSsp hp v)
  | usp => rfl
  | pc => rfl

theorem writeReg_setSsp (r : Reg) (w : Word) :
    writeReg (s.setSsp v) r w = (writeReg s r w).map fun t => t.setSsp v := by
  cases r with
  | g n => rfl
  | sp => exact congrArg Res.ok (setSp_setSsp hp v w)
  | usp => rfl
  | pc => rfl

theorem push_setSsp (w : Word) : push (s.setSsp v) w = (push s w).map fun t => t.setSsp v := by
  unfold push
  rw [sp_setSsp hp, writeWord_setSsp]
  cases h : writeWord s .stack (s.sp - 2#16) w with
  | ok u =>
    obtain ⟨-, -, -, -, rfl⟩ := writeWord_eq_ok h
    exact congrArg Res.ok (setSp_setSsp (by simpa using hp) v _)
  | raise e => rfl
  | fault f => rfl
  | refused r => rfl

theorem pop_setSsp : pop (s.setSsp v) = (pop s).map fun r => (r.1, r.2.setSsp v) := by
  unfold pop
  rw [sp_setSsp hp, readWord_setSsp, setSp_setSsp hp, Res.map_map]

theorem trapReturn_setSsp : trapReturn (s.setSsp v) = (trapReturn s).map fun t => t.setSsp v := by
  unfold trapReturn
  simp only [sp_setSsp hp, readWord_setSsp, setSp_setSsp hp, Res.map_bind, Res.map_map]
  rfl

theorem effAddr_setSsp (m : MemEA) : effAddr (s.setSsp v) m = effAddr s m := by
  cases m <;> simp only [effAddr, readReg_setSsp hp]

theorem operand_setSsp (ea : EA) : operand (s.setSsp v) ea = operand s ea := by
  cases ea with
  | mem m => simp only [operand, loadMem, effAddr_setSsp hp, readByte_setSsp, readWord_setSsp]
  | imm w => rfl
  | reg rs => exact readReg_setSsp hp v rs
  | imm4 i4 => rfl

theorem storeMem_setSsp (m : MemEA) (w : Word) :
    storeMem (s.setSsp v) m w = (storeMem s m w).map fun t => t.setSsp v := by
  unfold storeMem
  rw [effAddr_setSsp hp, Res.map_bind]
  refine Res.bind_congr_ok fun a _ => ?_
  split
  · exact writeByte_setSsp ..
  · exact writeWord_setSsp ..

theorem jumpTarget_setSsp (ea : JumpEA) : jumpTarget (s.setSsp v) ea = jumpTarget s ea := effAddr_setSsp hp v _

theorem portAddr_setSsp (ea : PortEA) : portAddr (s.setSsp v) ea = portAddr s ea := by
  cases ea with
  | drct dsp => rfl
  | indr rx => exact readReg_setSsp hp v rx
  | bindr rx => exact readReg_setSsp hp v rx

/-! ### The effects of instructions -/

theorem writeResult_setSsp (rd : Reg) (r : Word) (fl : Flags) :
    writeResult (s.setSsp v) rd r fl = (writeResult s rd r fl).map fun t => t.setSsp v := by
  unfold writeResult
  rw [writeReg_setSsp hp, Res.map_map, Res.map_map]
  rfl

theorem aluEffect_setSsp (rd : Reg) (ea : EA) (f : Word → Word → Word) (fl : Word → Word → Word → Flags) :
    aluEffect rd ea (s.setSsp v) f fl = (aluEffect rd ea s f fl).map fun t => t.setSsp v := by
  unfold aluEffect
  simp only [readReg_setSsp hp, operand_setSsp hp, writeResult_setSsp hp, Res.map_bind]

theorem divEffect_setSsp (rd : Reg) (ea : EA) (f : Word → Word → Word) :
    divEffect rd ea (s.setSsp v) f = (divEffect rd ea s f).map fun t => t.setSsp v := by
  unfold divEffect
  simp only [readReg_setSsp hp, operand_setSsp hp, Res.map_bind]
  refine Res.bind_congr_ok fun a _ => Res.bind_congr_ok fun b _ => ?_
  split
  · rfl
  · exact writeResult_setSsp hp v ..

theorem writePair_setSsp (rd hi : Reg) (low high : Word) :
    writePair (s.setSsp v) rd hi low high = (writePair s rd hi low high).map fun t => t.setSsp v := by
  unfold writePair
  rw [writeReg_setSsp hp, Res.bind_map, Res.map_bind]
  refine Res.bind_congr_ok fun t ht => ?_
  obtain ⟨-, hflag, -⟩ := writeReg_frame ht
  rw [writeReg_setSsp (by rw [hflag, hp]), Res.map_map, Res.map_map]
  rfl

theorem jumpEffect_setSsp (i : Instr) (ea : JumpEA) (c : Bool) :
    jumpEffect i ea (s.setSsp v) c = (jumpEffect i ea s c).map fun t => t.setSsp v := by
  unfold jumpEffect
  rw [jumpTarget_setSsp hp, Res.map_map]
  rfl

end

/-! ### Instructions and steps -/

/-- Trap entry leaves user mode (60_exceptions.md R211). -/
theorem trapEntry_privileged {n : Fin 16} {spc : Word} {s t : State} (h : trapEntry n spc s = .next t) :
    t.flag.p = true := by
  obtain ⟨-, -, -, hflag, -⟩ := trapEntry_next h
  rw [hflag]; rfl

/-- An instruction that stays in user mode takes no trap, so its effect alone decides whether it ignores SSP. -/
theorem perform_setSsp {i : Instr} {s t : State} {v : Word} {e e' : Res State} (h : perform i s e = .next t)
    (ht : t.flag.p = false) (he : e' = e.map fun u => u.setSsp v) : perform i (s.setSsp v) e' = .next (t.setSsp v) := by
  rcases perform_next h with ⟨hallowed, rfl⟩ | ⟨_, htrap, -⟩
  · subst he; exact perform_ok hallowed
  · exact absurd (trapEntry_privileged htrap) (by simp [ht])

theorem performSeq_setSsp {i : Instr} {s t : State} {v : Word} {e e' : Res State} (h : performSeq i s e = .next t)
    (ht : t.flag.p = false) (he : e' = e.map fun u => u.setSsp v) :
    performSeq i (s.setSsp v) e' = .next (t.setSsp v) := by
  refine perform_setSsp h ht ?_
  rw [he, Res.map_map, Res.map_map]
  rfl

/-- An instruction that stays in user mode ends, with any other value in SSP, in the same state but for that value. -/
theorem exec_setSsp {i : Instr} {s t : State} (v : Word) (h : exec i s = .next t) (hp : s.flag.p = false)
    (ht : t.flag.p = false) : exec i (s.setSsp v) = .next (t.setSsp v) := by
  cases i with
  | no => exact performSeq_setSsp (e := .ok s) h ht rfl
  | ld rd ea =>
    refine performSeq_setSsp h ht ?_
    simp only [operand_setSsp hp, writeReg_setSsp hp, Res.map_bind]
  | st rd m =>
    refine performSeq_setSsp h ht ?_
    simp only [readReg_setSsp hp, storeMem_setSsp hp, Res.map_bind]
  | ldFlag rd => exact performSeq_setSsp h ht (writeReg_setSsp hp v rd _)
  | cmp rd ea =>
    refine performSeq_setSsp h ht ?_
    simp only [readReg_setSsp hp, operand_setSsp hp, Res.map_bind, Res.map_map]
    rfl
  | add rd ea | sub rd ea | and rd ea | or rd ea | xor rd ea | adds rd ea | mul rd ea | shla rd ea | shll rd ea
  | shra rd ea | shrl rd ea =>
    exact performSeq_setSsp h ht (aluEffect_setSsp hp v ..)
  | div rd ea | mod rd ea =>
    exact performSeq_setSsp h ht (divEffect_setSsp hp v ..)
  | mull rd ea =>
    refine performSeq_setSsp h ht ?_
    simp only [readReg_setSsp hp, operand_setSsp hp, writePair_setSsp hp, Res.map_bind]
  | divl rd ea =>
    refine performSeq_setSsp h ht ?_
    simp only [readReg_setSsp hp, operand_setSsp hp, Res.map_bind]
    refine Res.bind_congr_ok fun hi _ => Res.bind_congr_ok fun high _ => Res.bind_congr_ok fun low _ =>
      Res.bind_congr_ok fun b _ => ?_
    split
    · rfl
    · exact writePair_setSsp hp v ..
  | jz ea | jc ea | jm ea | jo ea | jgt ea | jge ea | jle ea | jlt ea | jnz ea | jnc ea | jnm ea | jno ea | jhi ea
  | jls ea | jmp ea =>
    exact perform_setSsp h ht (jumpEffect_setSsp hp v ..)
  | call ea =>
    refine perform_setSsp h ht ?_
    simp only [jumpTarget_setSsp hp, push_setSsp hp, Res.map_bind, Res.map_map]
    rfl
  | inp rd ea =>
    refine performSeq_setSsp h ht ?_
    simp only [portAddr_setSsp hp, ioRead_setSsp, Res.map_bind, Res.bind_map]
    refine Res.bind_congr_ok fun a _ => Res.bind_congr_ok fun r hr => writeReg_setSsp ?_ v rd r.1
    rw [(ioRead_eq_ok hr).2, State.logIo_flag, hp]
  | outp rd ea =>
    refine performSeq_setSsp h ht ?_
    simp only [readReg_setSsp hp, portAddr_setSsp hp, ioWrite_setSsp, Res.map_bind]
  | push rd =>
    refine performSeq_setSsp h ht ?_
    simp only [readReg_setSsp hp, push_setSsp hp, Res.map_bind]
  | pop rd =>
    refine performSeq_setSsp h ht ?_
    simp only [pop_setSsp hp, Res.map_bind, Res.bind_map]
    refine Res.bind_congr_ok fun r hr => writeReg_setSsp ?_ v rd r.1
    rw [(pop_eq_ok hr).2, State.setSp_flag, hp]
  | ret =>
    refine perform_setSsp h ht ?_
    rw [pop_setSsp hp, Res.map_map, Res.map_map]
    rfl
  | reti => exact perform_setSsp h ht (trapReturn_setSsp hp v)
  | ei => exact performSeq_setSsp (e := .ok _) h ht rfl
  | di => exact performSeq_setSsp (e := .ok _) h ht rfl
  | svc => exact perform_setSsp (show perform .svc s (.raise .svc) = .next t from h) ht rfl
  | halt => exact performSeq_setSsp (e := .ok _) h ht rfl

theorem orStop_eq_ok {α : Type} {s : State} {npc : Option Word} {x : Res α} {a : α} :
    orStop s npc x = .ok a ↔ x = .ok a := by
  cases x <;> simp [orStop]

theorem except_bind_eq_ok {ε α β : Type} {x : Except ε α} {k : α → Except ε β} {b : β} :
    x.bind k = .ok b ↔ ∃ a, x = .ok a ∧ k a = .ok b := by
  cases x <;> simp [Except.bind]

/-- A fetch answers an instruction exactly when its words can be read and decoded (30_encoding.md R80 (1) to (5)). -/
theorem fetch_eq_ok {s : State} {i : Instr} :
    fetch s = .ok i ↔ ∃ w1, readWord s .fetch s.pc = .ok w1 ∧
      ((needsSecondWord w1 = some false ∧ decodeRes w1 0#16 = .ok i) ∨
        (needsSecondWord w1 = some true ∧ ∃ w2, readWord s .fetch (s.pc + 2#16) = .ok w2 ∧ decodeRes w1 w2 = .ok i)) := by
  unfold fetch
  simp only [except_bind_eq_ok, orStop_eq_ok]
  refine exists_congr fun w1 => and_congr_right fun _ => ?_
  cases needsSecondWord w1 with
  | none => simp
  | some two => cases two <;> simp [except_bind_eq_ok, orStop_eq_ok]

theorem fetch_setSsp {s : State} {i : Instr} (v : Word) (h : fetch s = .ok i) : fetch (s.setSsp v) = .ok i := by
  rw [fetch_eq_ok] at h ⊢; exact h

/-- A step that fetches an instruction is that instruction and the devices' move. -/
theorem step_of_fetch {s : State} {i : Instr} (hh : s.halted = false) (hirq : pendingInterrupt s = none)
    (hf : fetch s = .ok i) : step s = settle (exec i s) := by
  simp [step, cpuStep, hh, hirq, hf]

/-- A step that stays in user mode ends, with any other value in SSP, in the same state but for that value. -/
theorem step_setSsp {s t : State} (v : Word) (h : step s = .next t) (hp : s.flag.p = false) (ht : t.flag.p = false) :
    step (s.setSsp v) = .next (t.setSsp v) := by
  obtain ⟨hh, u, rfl, ⟨n, spc, htrap⟩ | ⟨hirq, i, hf, hexec⟩⟩ := step_next h
  · exact absurd (trapEntry_privileged htrap) (by simpa using ht)
  · rw [step_of_fetch (s := s.setSsp v) hh hirq (fetch_setSsp v hf), exec_setSsp v hexec hp ht]
    rfl

/-- Settles O56: number Eh is USP by the register table; with P = 0 register reads and writes do not reach SSP; and every
operation of a step that takes no trap commutes with a change of SSP. -/
theorem userModeIgnoresSsp : Obligations.UserModeIgnoresSsp := by
  refine ⟨fun s v => ⟨rfl, rfl⟩, fun n s t v hp => ⟨readReg_setSsp hp v _, fun hw => ?_⟩,
    fun s t v h hp ht => step_setSsp v h hp ht⟩
  simpa [hp] using writeReg_ssp hw

end Sys2Proof.Machine
end

-- Family 20_memory.md: words in memory (R51 to R57, R61), what a step may write (R58, R60 to R63), the I/O space (R66, R68).
section
/-! SUPPORT. Where a word lies, and when a word can be read and written; what each form of an instruction's effect writes, and so
what a step keeps in memory; the stops of accesses that are misaligned, reach ROM or have no port (20_memory.md R51 to R68). -/

namespace Sys2Proof.Machine

/-! ### Addresses -/

theorem isOdd_eq_decide (a : Word) : isOdd a = decide (a.toNat % 2 = 1) := by
  simp [isOdd, BitVec.getLsbD, Nat.testBit_zero]

theorem toNat_mod_two_of_even {a : Word} (h : isOdd a = false) : a.toNat % 2 = 0 := by
  have hne : a.toNat % 2 ≠ 1 := by simpa [isOdd_eq_decide] using h
  omega

theorem toNat_succ_of_even {a : Word} (h : isOdd a = false) : (a + 1#16).toNat = a.toNat + 1 := by
  have heven := toNat_mod_two_of_even h
  have hlt : a.toNat < 65536 := a.isLt
  rw [BitVec.toNat_add, BitVec.toNat_ofNat]
  omega

theorem isOdd_sub_two (a : Word) : isOdd (a - 2#16) = isOdd a := by
  have hlt : a.toNat < 65536 := a.isLt
  rw [isOdd_eq_decide, isOdd_eq_decide, BitVec.toNat_sub, BitVec.toNat_ofNat, decide_eq_decide]
  omega

theorem regionOf_eq_rom {a : Nat} : regionOf a = .rom ↔ 0xF000 ≤ a ∧ a ≤ 0xFFDF := by
  unfold regionOf
  repeat' split
  all_goals simp only [reduceCtorEq, true_iff, false_iff]; omega

theorem regionOf_eq_attrib {a : Nat} : regionOf a = .attrib ↔ 0xE000 ≤ a ∧ a ≤ 0xEFFF ∧ a % 2 = 0 := by
  unfold regionOf
  repeat' split
  all_goals simp only [reduceCtorEq, true_iff, false_iff]; omega

/-- ROM begins and ends at an even address, so a word lies inside it or outside it (20_memory.md R62). -/
theorem regionOf_succ_ne_rom {a : Word} (ho : isOdd a = false) (hr : regionOf a.toNat ≠ .rom) :
    regionOf (a + 1#16).toNat ≠ .rom := by
  have heven := toNat_mod_two_of_even ho
  rw [ne_eq, regionOf_eq_rom] at hr ⊢
  rw [toNat_succ_of_even ho]
  omega

/-- The low byte of a word is an odd byte, so it holds something in the display region too (20_memory.md R61). -/
theorem regionOf_succ_ne_attrib {a : Word} (ho : isOdd a = false) : regionOf (a + 1#16).toNat ≠ .attrib := by
  have heven := toNat_mod_two_of_even ho
  rw [ne_eq, regionOf_eq_attrib, toNat_succ_of_even ho]
  omega

/-! ### Reads and writes of a word -/

theorem readWord_of_allowed {s : State} {k : AccessKind} {a : Word} {hi lo : Byte} (h : WordAllowed s k a)
    (hhi : byteAt s k a = .ok hi) (hlo : byteAt s k (a + 1#16) = .ok lo) : readWord s k a = .ok (wordOfBytes hi lo) := by
  obtain ⟨ho, hd, hd'⟩ := h
  simp [readWord, ho, hd, hd', hhi, hlo]

theorem readWord_of_odd {s : State} {k : AccessKind} {a : Word} (h : isOdd a = true) :
    readWord s k a = .fault .misaligned := by
  simp [readWord, h]

theorem writeWord_of_writable {s : State} {k : AccessKind} {a : Word} (h : WordWritable s k a) (v : Word) :
    writeWord s k a v = .ok (s.storeWord a v) := by
  obtain ⟨⟨ho, hd, hd'⟩, hr⟩ := h
  simp [writeWord, ho, hd, hd', hr]

theorem writeWord_of_odd {s : State} {k : AccessKind} {a : Word} (h : isOdd a = true) (v : Word) :
    writeWord s k a v = .fault .misaligned := by
  simp [writeWord, h]

theorem writeWord_of_rom {s : State} {k : AccessKind} {a : Word} (h : WordAllowed s k a) (hr : regionOf a.toNat = .rom)
    (v : Word) : writeWord s k a v = .refused .romWrite := by
  obtain ⟨ho, hd, hd'⟩ := h
  simp [writeWord, ho, hd, hd', hr]

theorem writeByte_of_rom {s : State} {k : AccessKind} {a : Word} (h : denied s k a = false)
    (hr : regionOf a.toNat = .rom) (v : Byte) : writeByte s k a v = .refused .romWrite := by
  simp [writeByte, h, hr]

theorem byteAt_of_attrib {s : State} {a : Word} (h : regionOf a.toNat = .attrib) (k : AccessKind) :
    byteAt s k a = .ok (Config.attributeDraw s.tick k a) := by
  simp [byteAt, h]

theorem storeByte_of_attrib {s : State} {a : Word} (h : regionOf a.toNat = .attrib) (v : Byte) : s.storeByte a v = s := by
  simp [State.storeByte, Memory.store, h, State.setMem]

/-- A word just stored lies in its two bytes, the high one at the lower address (20_memory.md R51). -/
theorem wordStored_storeWord (s : State) (a v : Word) : WordStored a v (s.storeWord a v) := by
  have hne : a ≠ a + 1#16 := by bv_omega
  refine ⟨fun hr k => ?_, fun hr k => byteAt_storeByte_self _ _ _ k hr⟩
  rw [State.storeWord, byteAt_storeByte_ne _ _ _ hne]
  exact byteAt_storeByte_self s a _ k hr

theorem memKeptButWord_storeWord (s : State) (a v : Word) : MemKeptButWord a s (s.storeWord a v) :=
  fun k _ h0 h1 => byteAt_storeWord_ne s v k h0 h1

theorem readWord_of_wordStored {t : State} {k : AccessKind} {a v : Word} (h : WordAllowed t k a)
    (hr : regionOf a.toNat ≠ .attrib) (hs : WordStored a v t) : readWord t k a = .ok v := by
  obtain ⟨hhi, hlo⟩ := hs
  have hread := readWord_of_allowed h (hhi hr k) (hlo (regionOf_succ_ne_attrib h.1) k)
  exact hread.trans (congrArg Res.ok (wordOfBytes_hi_lo v))

/-- Settles O9: a word write is one store of its two bytes; where the first of them is an even byte of the display region,
the store does not reach it and a read draws it. -/
theorem readAfterWrite : Obligations.ReadAfterWrite := by
  refine fun s a => ⟨fun k j v hw => ?_, fun hattr => ⟨storeByte_of_attrib hattr, fun k lo hallowed hlo => ?_⟩⟩
  · exact ⟨_, writeWord_of_writable hw v, wordStored_storeWord s a v, memKeptButWord_storeWord s a v,
      ⟨fun _ => rfl, rfl, rfl⟩, ⟨rfl, rfl, rfl, rfl, rfl, rfl, rfl⟩,
      fun hr hallowed => readWord_of_wordStored hallowed hr (wordStored_storeWord s a v)⟩
  · exact ⟨_, readWord_of_allowed hallowed (byteAt_of_attrib hattr k) hlo, loByte_wordOfBytes _ lo⟩

/-! ### What writes memory -/

/-- What a completed instruction can do to memory: nothing, trap entry's writes, or one store outside ROM (20_memory.md R58). -/
inductive MemEffect (i : Instr) (s t : State) : Prop
  /-- no write -/
  | kept (h : t.mem = s.mem)
  /-- trap entry -/
  | trap (n : Fin 16) (spc : Word) (h : trapEntry n spc s = .next t)
  /-- one word of ST, PUSH or CALL -/
  | word (a v : Word) (ho : isOdd a = false) (hr : regionOf a.toNat ≠ .rom) (ht : t.mem = (s.storeWord a v).mem)
      (hi : (∃ rd m, i = .st rd m) ∨ (∃ rd, i = .push rd) ∨ ∃ ea, i = .call ea)
  /-- one byte of ST -/
  | byte (a : Word) (v : Byte) (hr : regionOf a.toNat ≠ .rom) (ht : t.mem = (s.storeByte a v).mem)
      (hi : ∃ rd m, i = .st rd m)

theorem writeReg_mem {s t : State} {r : Reg} {v : Word} (h : writeReg s r v = .ok t) : t.mem = s.mem := by
  obtain ⟨-, -, -, -, -, -, hmem, -⟩ := writeReg_frame h
  exact hmem

@[simp] theorem ioLimits_mem (s : State) (w : IoWidth) (a v : Word) : (ioLimits s w a v).mem = s.mem := by
  obtain ⟨-, -, -, -, -, -, -, hmem, -⟩ := ioLimits_frame s w a v
  exact hmem

theorem Effect.memEffect {i : Instr} {s t : State} (h : Effect i s t) : MemEffect i s t := by
  cases h with
  | trap n spc h => exact .trap n spc h
  | reg u rd v f pc hw ht => exact .kept (by simpa [ht] using writeReg_mem hw)
  | pair u u' rd rd' v v' f pc hw hw' ht => exact .kept (by simpa [ht] using (writeReg_mem hw').trans (writeReg_mem hw))
  | plain f pc ht => exact .kept (by simp [ht])
  | enable e pc hp ht => exact .kept (by simp [ht])
  | halt hp ht => exact .kept (by simp [ht])
  | reti hi f v hf hv ht => exact .kept (by simp [ht])
  | pop sp' rd v u pc hw ht =>
    obtain ⟨-, rfl⟩ | ⟨r, -, hw⟩ := hw
    · exact .kept (by simp [ht])
    · exact .kept (by simpa [ht] using writeReg_mem hw)
  | push v pc hw ht hi =>
    obtain ⟨⟨ho, -, -⟩, hr⟩ := hw
    exact .word _ v ho hr (by simp [ht]) (.inr hi)
  | storeWord a v pc hw ht hi =>
    obtain ⟨⟨ho, -, -⟩, hr⟩ := hw
    exact .word a v ho hr (by simp [ht]) (.inl hi)
  | storeByte a v pc hw hr ht hi => exact .byte a v hr (by simp [ht]) hi
  | inp rd ea e v u pc hi hp hw ht => exact .kept (by simpa [ht] using writeReg_mem hw)
  | outp rd ea e w a v pc hi hp ht => exact .kept (by simp [ht])

/-- A property of the memory that a store outside ROM keeps. -/
def KeptByStores (P : Memory → Prop) : Prop :=
  ∀ (m : Memory) (a : Word) (v : Byte), regionOf a.toNat ≠ .rom → P m → P (m.store a v)

section
variable {P : Memory → Prop} (hP : KeptByStores P)
include hP

theorem KeptByStores.storeWord {s : State} {a : Word} (v : Word) (ho : isOdd a = false) (hr : regionOf a.toNat ≠ .rom)
    (h : P s.mem) : P (s.storeWord a v).mem :=
  hP _ _ _ (regionOf_succ_ne_rom ho hr) (hP _ _ _ hr h)

/-- Both pushes of trap entry are word stores outside ROM (60_exceptions.md R211). -/
theorem KeptByStores.of_trapEntry {n : Fin 16} {spc : Word} {s t : State} (h : trapEntry n spc s = .next t) (hs : P s.mem) :
    P t.mem := by
  obtain ⟨-, -, -, -, -, -, -, -, -, -, -, hr, hr', ho, ho', hmem⟩ := trapEntry_next h
  rw [hmem]
  exact hP.storeWord _ ho' hr' (hP.storeWord _ ho hr hs)

theorem KeptByStores.of_exec {i : Instr} {s t : State} (h : exec i s = .next t) (hs : P s.mem) : P t.mem := by
  cases (exec_effect h).memEffect with
  | kept h => rwa [h]
  | trap n spc h => exact hP.of_trapEntry h hs
  | word a v ho hr ht => rw [ht]; exact hP.storeWord v ho hr hs
  | byte a v hr ht => rw [ht]; exact hP _ _ _ hr hs

/-- What stores outside ROM keep, every step keeps. -/
theorem KeptByStores.of_step {s t : State} (h : step s = .next t) (hs : P s.mem) : P t.mem := by
  obtain ⟨-, u, rfl, ⟨n, spc, htrap⟩ | ⟨-, i, -, hexec⟩⟩ := step_next h
  · rw [endStep_mem]; exact hP.of_trapEntry htrap hs
  · rw [endStep_mem]; exact hP.of_exec hexec hs

end

/-- Settles O51: the memory of the reset state is the empty list. -/
theorem invAtReset : Obligations.InvAtReset := rfl

/-- Settles O52: a store keeps the canonical form, so every step does. -/
theorem stepKeepsInv : Obligations.StepKeepsInv := by
  intro s t hs h
  have hP : KeptByStores fun m => m.wf = true := fun m a v _ hm => Memory.wf_store m a v hm
  exact hP.of_step h hs

/-- Settles O53: a store outside ROM leaves what a ROM address holds, so every step does. -/
theorem stepKeepsRom : Obligations.StepKeepsRom := by
  intro s t h b hb
  have hP : KeptByStores fun m => m.get b = s.mem.get b := by
    intro m a v ha hm
    have hne : b ≠ a.toNat := by rintro rfl; exact ha hb
    rw [Memory.get_store_ne m a v hne, hm]
  exact hP.of_step h rfl

/-! ### What reaches the I/O space -/

theorem writeReg_ioLog {s t : State} {r : Reg} {v : Word} (h : writeReg s r v = .ok t) : t.ioLog = s.ioLog := by
  obtain ⟨-, -, -, -, -, -, -, hlog, -⟩ := writeReg_frame h
  exact hlog

@[simp] theorem ioLimits_ioLog (s : State) (w : IoWidth) (a v : Word) : (ioLimits s w a v).ioLog = s.ioLog := by
  obtain ⟨-, -, -, -, -, -, -, -, hlog, -⟩ := ioLimits_frame s w a v
  exact hlog

theorem trapEntry_ioLog {n : Fin 16} {spc : Word} {s t : State} (h : trapEntry n spc s = .next t) : t.ioLog = s.ioLog := by
  obtain ⟨-, -, -, -, -, -, -, -, hlog, -⟩ := trapEntry_next h
  exact hlog

/-- The I/O history is kept, or IN or OUT enters one event (20_memory.md R58, R68). -/
theorem Effect.ioLog_cases {i : Instr} {s t : State} (h : Effect i s t) :
    t.ioLog = s.ioLog ∨
      ∃ (rd : Reg) (ea : PortEA) (e : IoEvent), (i = .inp rd ea ∨ i = .outp rd ea) ∧ t.ioLog = s.ioLog ++ [e] := by
  cases h with
  | trap n spc h => exact .inl (trapEntry_ioLog h)
  | reg u rd v f pc hw ht => exact .inl (by simpa [ht] using writeReg_ioLog hw)
  | pair u u' rd rd' v v' f pc hw hw' ht => exact .inl (by simpa [ht] using (writeReg_ioLog hw').trans (writeReg_ioLog hw))
  | plain f pc ht => exact .inl (by simp [ht])
  | enable e pc hp ht => exact .inl (by simp [ht])
  | halt hp ht => exact .inl (by simp [ht])
  | reti hi f v hf hv ht => exact .inl (by simp [ht])
  | pop sp' rd v u pc hw ht =>
    obtain ⟨-, rfl⟩ | ⟨r, -, hw⟩ := hw
    · exact .inl (by simp [ht])
    · exact .inl (by simpa [ht] using writeReg_ioLog hw)
  | push v pc hw ht => exact .inl (by simp [ht])
  | storeWord a v pc hw ht => exact .inl (by simp [ht])
  | storeByte a v pc hw hr ht => exact .inl (by simp [ht])
  | inp rd ea e v u pc hi hp hw ht => exact .inr ⟨rd, ea, e, .inl hi, by simpa [ht] using writeReg_ioLog hw⟩
  | outp rd ea e w a v pc hi hp ht => exact .inr ⟨rd, ea, e, .inr hi, by simp [ht]⟩

/-- Settles O58, from what an instruction can do when it completes. -/
theorem memoryAndIoWriters : Obligations.MemoryAndIoWriters := by
  refine fun i s t h => ⟨fun hne => ?_, fun hne => (exec_effect h).ioLog_cases.resolve_left hne⟩
  cases (exec_effect h).memEffect with
  | kept h => exact absurd h hne
  | trap n spc h => exact .inl ⟨n, spc, h⟩
  | word a v ho hr ht hi => exact .inr hi
  | byte a v hr ht hi => exact .inr (.inl hi)

/-! ### Instructions that stop -/

section
variable {i : Instr} {s : State} (hp : privAllowed i s = true)
include hp

theorem perform_fault (f : Fault) : perform i s (.fault f) = .fault f := by
  simp [perform, conclude, orStop, hp]

theorem perform_refused (r : Refusal) : perform i s (.refused r) = .refused r := by
  simp [perform, conclude, orStop, hp]

theorem performSeq_fault (f : Fault) : performSeq i s (.fault f) = .fault f := perform_fault hp f

theorem performSeq_refused (r : Refusal) : performSeq i s (.refused r) = .refused r := perform_refused hp r

end

section
variable {s : State} {m : MemEA} {a : Word}

theorem storeMem_byte (hb : MemEA.isByte m = true) (ha : effAddr s m = .ok a) (v : Word) :
    storeMem s m v = writeByte s .write a (loByte v) := by
  simp [storeMem, ha, hb]

theorem storeMem_word (hb : MemEA.isByte m = false) (ha : effAddr s m = .ok a) (v : Word) :
    storeMem s m v = writeWord s .write a v := by
  simp [storeMem, ha, hb]

theorem operand_word (hb : MemEA.isByte m = false) (ha : effAddr s m = .ok a) :
    operand s (.mem m) = readWord s .read a := by
  simp [operand, loadMem, ha, hb]

end

theorem ne_pc_of_isPc {r : Reg} (h : r.isPc = false) : r ≠ .pc := by
  rintro rfl; cases h

theorem jumpTarget_isOk (s : State) {ea : JumpEA} (h : ea.usesPc = false) : ∃ a, jumpTarget s ea = .ok a := by
  cases ea with
  | drct dsp => exact ⟨dsp, rfl⟩
  | idx dsp rx =>
    obtain ⟨x, hx⟩ := readReg_isOk s (ne_pc_of_isPc h)
    exact ⟨dsp + x, by rw [jumpTarget, JumpEA.asMem, effAddr, hx, Res.map_ok]⟩
  | indr rx => exact readReg_isOk s (ne_pc_of_isPc h)

/-- ST is its write, once Rd is read (40_no_load_store.md R124). -/
theorem exec_st_of_readReg {s : State} {rd : Reg} {v : Word} (hv : readReg s rd = .ok v) (m : MemEA) :
    exec (.st rd m) s = performSeq (.st rd m) s (storeMem s m v) := by
  change execSt rd m s = _
  rw [execSt, hv, Res.bind_ok]

/-- PUSH is its push, once Rd is read (46_stack_return.md R186). -/
theorem exec_push_of_readReg {s : State} {rd : Reg} {v : Word} (hv : readReg s rd = .ok v) :
    exec (.push rd) s = performSeq (.push rd) s (push s v) := by
  change execPush rd s = _
  rw [execPush, hv, Res.bind_ok]

/-- CALL is its push and the jump to a target read before it (44_jump_call.md R176). -/
theorem exec_call_of_jumpTarget {s : State} {ea : JumpEA} {target : Word} (ht : jumpTarget s ea = .ok target) :
    exec (.call ea) s = perform (.call ea) s ((push s (nextPc (.call ea) s)).map fun t => t.setPc target) := by
  change execCall ea s = _
  rw [execCall, ht, Res.bind_ok]

/-! ### The two-operand instructions -/

/-- The two-operand instructions, by the shape of their effect. -/
theorem twoOperand_cases {row : Nat} {mk : Reg → EA → Instr} (h : twoOperand row = some mk) :
    mk = .ld ∨ mk = .cmp ∨ mk = .mull ∨ mk = .divl ∨ (mk = .div ∨ mk = .mod) ∨
      (mk = .add ∨ mk = .sub ∨ mk = .and ∨ mk = .or ∨ mk = .xor ∨ mk = .adds ∨ mk = .mul ∨ mk = .shla ∨ mk = .shll ∨
        mk = .shra ∨ mk = .shrl) := by
  unfold twoOperand at h
  split at h <;> cases h <;> simp

theorem wellFormed_iff {i : Instr} : i.wellFormed = true ↔ i.usesPc = false ∧ i.badPair = false := by
  simp [Instr.wellFormed]

theorem rd_ne_pc_of_twoOperand {row : Nat} {mk : Reg → EA → Instr} (h : twoOperand row = some mk) {rd : Reg}
    {ea : EA} (hwf : (mk rd ea).wellFormed = true) : rd ≠ .pc := by
  have hpc : (mk .pc ea).usesPc = true := by
    obtain rfl | rfl | rfl | rfl | (rfl | rfl) | rfl | rfl | rfl | rfl | rfl | rfl | rfl | rfl | rfl | rfl | rfl :=
      twoOperand_cases h <;> rfl
  obtain ⟨hnone, -⟩ := wellFormed_iff.1 hwf
  rintro rfl
  rw [hpc] at hnone
  cases hnone

theorem pairHigh_of_isPairLow {rd : Reg} (h : rd.isPairLow = true) : ∃ n, pairHigh rd = .ok (.g n) := by
  cases rd with
  | g n =>
    have hn : n.val % 2 = 0 ∧ n.val ≤ 10 := by simpa [Reg.isPairLow] using h
    exact ⟨⟨n.val + 1, by omega⟩, dif_pos hn⟩
  | sp => cases h
  | usp => cases h
  | pc => cases h

theorem aluEffect_of_readReg {s : State} {rd : Reg} {a : Word} (ha : readReg s rd = .ok a) (ea : EA)
    (f : Word → Word → Word) (fl : Word → Word → Word → Flags) :
    aluEffect rd ea s f fl = (operand s ea).bind fun b => writeResult s rd (f a b) (fl a b (f a b)) := by
  rw [aluEffect, ha, Res.bind_ok]

/-- A two-operand instruction reads nothing that can stop before its operand, and writes nothing before it (41_arith_logic.md
R131). -/
theorem exec_twoOperand_eq {row : Nat} {mk : Reg → EA → Instr} (h : twoOperand row = some mk) {rd : Reg} {ea : EA}
    (hwf : (mk rd ea).wellFormed = true) (s : State) :
    ∃ k : Word → Res State, exec (mk rd ea) s = performSeq (mk rd ea) s ((operand s ea).bind k) := by
  obtain ⟨a, ha⟩ := readReg_isOk s (rd_ne_pc_of_twoOperand h hwf)
  obtain ⟨-, hpair⟩ := wellFormed_iff.1 hwf
  obtain rfl | rfl | rfl | rfl | hdiv | halu := twoOperand_cases h
  · exact ⟨fun b => writeReg s rd b, rfl⟩
  · exact ⟨_, congrArg (performSeq (.cmp rd ea) s) (by rw [ha, Res.bind_ok]; rfl)⟩
  · obtain ⟨n, hn⟩ := pairHigh_of_isPairLow (by simpa [Instr.badPair] using hpair)
    exact ⟨_, congrArg (performSeq (.mull rd ea) s) (by rw [hn, Res.bind_ok, ha, Res.bind_ok])⟩
  · obtain ⟨n, hn⟩ := pairHigh_of_isPairLow (by simpa [Instr.badPair] using hpair)
    have hhigh : readReg s (.g n) = .ok s.gr[n] := rfl
    exact ⟨_, congrArg (performSeq (.divl rd ea) s) (by rw [hn, Res.bind_ok, hhigh, Res.bind_ok, ha, Res.bind_ok])⟩
  · have hread (f : Word → Word → Word) : ∃ k, divEffect rd ea s f = (operand s ea).bind k :=
      ⟨_, by rw [divEffect, ha, Res.bind_ok]⟩
    obtain rfl | rfl := hdiv
    · exact (hread _).imp fun _ hk => congrArg (performSeq (.div rd ea) s) hk
    · exact (hread _).imp fun _ hk => congrArg (performSeq (.mod rd ea) s) hk
  · obtain rfl | rfl | rfl | rfl | rfl | rfl | rfl | rfl | rfl | rfl | rfl := halu <;>
      exact ⟨_, congrArg (performSeq _ s) (aluEffect_of_readReg ha ea _ _)⟩

/-! ### Misaligned words -/

theorem fetch_of_odd {s : State} (h : isOdd s.pc = true) : fetch s = .error (.fault .misaligned) := by
  simp [fetch, readWord_of_odd h, orStop, Except.bind]

theorem step_of_odd {s : State} (h : AboutToFetch s) (hodd : isOdd s.pc = true) : step s = .fault .misaligned := by
  obtain ⟨hh, hirq⟩ := h
  simp [step, cpuStep, hh, hirq, fetch_of_odd hodd, settle]

theorem push_of_odd {s : State} (h : isOdd s.sp = true) (v : Word) : push s v = .fault .misaligned := by
  rw [push, writeWord_of_odd ((isOdd_sub_two s.sp).trans h), Res.map_fault]

theorem pop_of_odd {s : State} (h : isOdd s.sp = true) : pop s = .fault .misaligned := by
  rw [pop, readWord_of_odd h, Res.map_fault]

theorem trapReturn_of_odd {s : State} (h : isOdd s.sp = true) : trapReturn s = .fault .misaligned := by
  rw [trapReturn, readWord_of_odd h, Res.bind_fault]

theorem byteAt_ne_misaligned (s : State) (k : AccessKind) (a : Word) : byteAt s k a ≠ .fault .misaligned := by
  unfold byteAt
  cases regionOf a.toNat <;> cases s.mem.get a.toNat <;> simp

theorem readByte_ne_misaligned (s : State) (k : AccessKind) (a : Word) : readByte s k a ≠ .fault .misaligned := by
  unfold readByte
  split
  · simp
  · exact byteAt_ne_misaligned s k a

/-- Settles O20: each of the instructions makes its word access before anything else that can stop. -/
theorem misalignedWordFaults : Obligations.MisalignedWordFaults := by
  refine fun s a hodd => ⟨?fetch, ?st, ?operand, ?stack, fun k => readByte_ne_misaligned s k a⟩
  case fetch =>
    rintro hfetch rfl
    exact step_of_odd hfetch hodd
  case st =>
    intro rd m hrd hp hb ha
    obtain ⟨v, hv⟩ := readReg_isOk s hrd
    rw [exec_st_of_readReg hv, storeMem_word hb ha, writeWord_of_odd hodd, performSeq_fault hp]
  case operand =>
    intro row mk rd m hmk hwf hp hb ha
    obtain ⟨k, hexec⟩ := exec_twoOperand_eq hmk hwf s
    rw [hexec, operand_word hb ha, readWord_of_odd hodd, Res.bind_fault, performSeq_fault hp]
  case stack =>
    rintro rfl
    refine ⟨fun rd hp => ?pop, fun hp => ?ret, fun hp => ?reti, fun rd hrd hp => ?push, fun ea hea => ?call⟩
    case pop =>
      change performSeq (.pop rd) s ((pop s).bind _) = _
      rw [pop_of_odd hodd, Res.bind_fault, performSeq_fault hp]
    case ret =>
      change perform .ret s ((pop s).map _) = _
      rw [pop_of_odd hodd, Res.map_fault, perform_fault hp]
    case reti =>
      change perform .reti s (trapReturn s) = _
      rw [trapReturn_of_odd hodd, perform_fault hp]
    case push =>
      obtain ⟨v, hv⟩ := readReg_isOk s hrd
      rw [exec_push_of_readReg hv, push_of_odd hodd, performSeq_fault hp]
    case call =>
      obtain ⟨target, ht⟩ := jumpTarget_isOk s hea
      rw [exec_call_of_jumpTarget ht, push_of_odd hodd, Res.map_fault, perform_fault (privAllowed_of_neverPrivileged rfl s)]

/-! ### Writes to ROM -/

theorem push_of_rom {s : State} (h : WordAllowed s .stack (s.sp - 2#16)) (hr : regionOf (s.sp - 2#16).toNat = .rom)
    (v : Word) : push s v = .refused .romWrite := by
  rw [push, writeWord_of_rom h hr, Res.map_refused]

theorem storeMem_of_rom {s : State} {m : MemEA} {a : Word} (ha : effAddr s m = .ok a) (hr : regionOf a.toNat = .rom)
    (h : (MemEA.isByte m = true ∧ denied s .write a = false) ∨ WordAllowed s .write a) (v : Word) :
    storeMem s m v = .refused .romWrite := by
  have hd : denied s .write a = false := h.elim (fun ⟨_, hd⟩ => hd) fun ⟨_, hd, _⟩ => hd
  cases hb : MemEA.isByte m with
  | true => rw [storeMem_byte hb ha, writeByte_of_rom hd hr]
  | false =>
    have hw : WordAllowed s .write a := h.resolve_left (by simp [hb])
    rw [storeMem_word hb ha, writeWord_of_rom hw hr]

/-- Settles O21: F000h to FFDFh is ROM, and an allowed write there is refused before it changes anything. -/
theorem romWritesRefused : Obligations.RomWritesRefused := by
  intro s a hlo hhi
  have hr : regionOf a.toNat = .rom := regionOf_eq_rom.2 ⟨hlo, hhi⟩
  refine ⟨fun rd m hrd hp ha => ?st, ?push, ?call⟩
  case st =>
    obtain ⟨v, hv⟩ := readReg_isOk s hrd
    have hrefused (h : (MemEA.isByte m = true ∧ denied s .write a = false) ∨ WordAllowed s .write a) :
        exec (.st rd m) s = .refused .romWrite := by
      rw [exec_st_of_readReg hv, storeMem_of_rom ha hr h, performSeq_refused hp]
    exact ⟨fun hb hd => hrefused (.inl ⟨hb, hd⟩), fun hw => hrefused (.inr hw)⟩
  case push =>
    rintro rd hrd hp rfl hw
    obtain ⟨v, hv⟩ := readReg_isOk s hrd
    rw [exec_push_of_readReg hv, push_of_rom hw hr, performSeq_refused hp]
  case call =>
    rintro ea hea rfl hw
    obtain ⟨target, ht⟩ := jumpTarget_isOk s hea
    rw [exec_call_of_jumpTarget ht, push_of_rom hw hr, Res.map_refused, perform_refused (privAllowed_of_neverPrivileged rfl s)]

/-! ### I/O addresses without a port -/

theorem ioMapped_iff {a : Word} : ioMapped a = true ↔ a.toNat < 0x28 ∨ (0xF4 ≤ a.toNat ∧ a.toNat ≤ 0xFF) := by
  simp [ioMapped]

theorem ioCheck_of_odd {w : IoWidth} {a : Word} (hw : w = .word) (h : isOdd a = true) :
    ioCheck w a = .refused .ioMisaligned := if_pos ⟨hw, h⟩

theorem ioCheck_of_unmapped {w : IoWidth} {a : Word} (he : w = .word → isOdd a = false)
    (h : (0x28 ≤ a.toNat ∧ a.toNat ≤ 0xF3) ∨ 0xFF < a.toNat) : ioCheck w a = .refused .ioUnmapped := by
  have hodd : ¬ (w = .word ∧ isOdd a = true) := fun ⟨hw, ho⟩ => by simp [he hw] at ho
  have hmap : ¬ ioMapped a = true := by rw [ioMapped_iff]; omega
  rw [ioCheck, if_neg hodd, if_neg hmap]

theorem ioCheck_of_addressable {w : IoWidth} {a : Word} (h : IoAddressable w a) : ioCheck w a = .ok () := by
  obtain ⟨hmap, heven⟩ := h
  exact ioCheck_eq_ok.2 ⟨ioMapped_iff.2 hmap, heven⟩

section
variable {rd : Reg} {ea : PortEA} {s : State} {port : Word} {r : Refusal}

theorem exec_inp_of_ioCheck (hp : privAllowed (.inp rd ea) s = true) (ha : portAddr s ea = .ok port)
    (h : ioCheck (PortEA.width ea) port = .refused r) : exec (.inp rd ea) s = .refused r := by
  change execInp rd ea s = _
  rw [execInp, ha, Res.bind_ok, ioRead, h, Res.map_refused, Res.bind_refused, performSeq_refused hp]

theorem exec_outp_of_ioWrite (hp : privAllowed (.outp rd ea) s = true) (hrd : rd ≠ .pc) (ha : portAddr s ea = .ok port)
    (h : ∀ v, ioWrite s (PortEA.width ea) port v = .refused r) : exec (.outp rd ea) s = .refused r := by
  obtain ⟨v, hv⟩ := readReg_isOk s hrd
  change execOutp rd ea s = _
  rw [execOutp, hv, Res.bind_ok, ha, Res.bind_ok, h v, performSeq_refused hp]

theorem ioWrite_of_ioCheck {w : IoWidth} (h : ioCheck w port = .refused r) (v : Word) : ioWrite s w port v = .refused r := by
  rw [ioWrite, h, Res.bind_refused]

theorem ioWrite_of_readOnly {w : IoWidth} (h : IoAddressable w port) (hro : ioHitsReadOnly w port = true) (v : Word) :
    ioWrite s w port v = .refused .ioReadOnlyPort := by
  rw [ioWrite, ioCheck_of_addressable h, Res.bind_ok, if_pos hro]

end

/-- Settles O43: IN and OUT stop at the check of the address, and OUT then at an (In) port. -/
theorem ioRefusals : Obligations.IoRefusals := by
  intro rd ea s port hrd ha
  refine ⟨fun hp => ⟨fun hw ho => ?_, fun he hm => ?_⟩, fun hp => ⟨fun hw ho => ?_, fun he hm => ?_, fun hmap hro => ?_⟩⟩
  · exact exec_inp_of_ioCheck hp ha (ioCheck_of_odd hw ho)
  · exact exec_inp_of_ioCheck hp ha (ioCheck_of_unmapped he hm)
  · exact exec_outp_of_ioWrite hp hrd ha (ioWrite_of_ioCheck (ioCheck_of_odd hw ho))
  · exact exec_outp_of_ioWrite hp hrd ha (ioWrite_of_ioCheck (ioCheck_of_unmapped he hm))
  · exact exec_outp_of_ioWrite hp hrd ha (ioWrite_of_readOnly hmap hro)

end Sys2Proof.Machine
end

-- Family 30_encoding.md: what a cell of the opcode map answers (R81 to R100).
section
/-! SUPPORT. What a cell of the opcode map answers for every value of the other fields, said once: the refusals, or an instruction
whose words are the fields it was read from (30_encoding.md R81 to R100). -/

namespace Sys2Proof

/-! ### Fields of a first word -/

@[simp] theorem packWord_fields (w : Word) : packWord (opField w) (rdField w) (rxField w) = w := by
  apply BitVec.eq_of_getLsbD_eq
  intro i hi
  rw [getLsbD_packWord, opField, rdField, rxField]
  split
  · split
    · simp [*]
    · simp [show i - 4 < 4 by omega, show 4 + (i - 4) = i by omega]
  · simp [show i - 8 < 8 by omega, show 8 + (i - 8) = i by omega]

@[simp] theorem opByte_opRow_opCol (op : BitVec 8) : opByte (opRow op) (opCol op) = op := by
  rw [opByte, opRow, opCol, Nat.div_add_mod, BitVec.ofNat_toNat, BitVec.setWidth_eq]

@[simp] theorem Reg.num_ofNum (n : Nibble) : (Reg.ofNum n).num = n := by
  revert n; decide

@[simp] theorem Reg.isPc_ofNum (n : Nibble) : (Reg.ofNum n).isPc = true ↔ n = 15#4 := by
  revert n; decide

@[simp] theorem bytesOfWord_wordOfBytes (hi lo : Byte) : bytesOfWord (wordOfBytes hi lo) = [hi, lo] := by
  simp [bytesOfWord]

/-! ### Formats -/

/-- The formats that show the low nibble as 0h (30_encoding.md R84). -/
def Format.LowZero (f : Format) : Prop := f = .drct ∨ f = .imm ∨ f = .oneReg

/-- The formats whose low nibble names a register (30_encoding.md R86, R89, R91, R92). -/
def Format.LowReg (f : Format) : Prop := f = .idx ∨ f = .reg ∨ f = .indr ∨ f = .bindr

/-- The words of an instruction of a format: its first word, and the second where the format has one (30_encoding.md R99). -/
def Format.words (f : Format) (w1 w2 : Word) : List Word := if f.twoWords then [w1, w2] else [w1]

theorem not_lowReg_of_lowZero {f : Format} (h : f.LowZero) : ¬ f.LowReg := by
  obtain rfl | rfl | rfl := h <;> simp [Format.LowReg]

/-- A mode whose 0h field is not zero has no operand (30_encoding.md R98). -/
theorem decodeEA_of_nonZero {f : Format} {col : Nat} {rx : Nibble} (hf : modeFormat col = some f) (hz : f.LowZero)
    (hrx : rx ≠ 0#4) (w2 : Word) : decodeEA f rx w2 = .error .nonZeroField := by
  obtain rfl | rfl | rfl := hz
  · simp [decodeEA, hrx]
  · simp [decodeEA, hrx]
  · unfold modeFormat at hf
    split at hf <;> cases hf

/-- The operand of a mode has the fields it was read from, and names PC exactly by a register field Fh. -/
theorem decodeEA_of_zero {f : Format} {col : Nat} {rx : Nibble} (hf : modeFormat col = some f)
    (hz : f.LowZero → rx = 0#4) (w2 : Word) :
    ∃ ea, decodeEA f rx w2 = .ok ea ∧ (∀ row rd, encodeEA row rd ea = f.words (packWord (opByte row col) rd rx) w2) ∧
      (ea.usesPc = true ↔ rx = 15#4 ∧ f.LowReg) := by
  unfold modeFormat at hf
  split at hf <;> cases hf
  · obtain rfl := hz (.inl rfl)
    exact ⟨.mem (.drct w2), rfl, fun _ _ => rfl, by simp [EA.usesPc, MemEA.usesPc]⟩
  · exact ⟨_, rfl, by simp [encodeEA, encodeMem, Format.words, Format.twoWords],
      by simp [EA.usesPc, MemEA.usesPc, Format.LowReg]⟩
  · obtain rfl := hz (.inr (.inl rfl))
    exact ⟨.imm w2, rfl, fun _ _ => rfl, by simp [EA.usesPc]⟩
  · exact ⟨_, rfl, fun _ _ => rfl, by simp [EA.usesPc, MemEA.usesPc, Format.LowReg]⟩
  · exact ⟨_, rfl, by simp [encodeEA, Format.words, Format.twoWords], by simp [EA.usesPc, Format.LowReg]⟩
  · exact ⟨_, rfl, fun _ _ => rfl, by simp [EA.usesPc, Format.LowReg]⟩
  · exact ⟨_, rfl, by simp [encodeEA, encodeMem, Format.words, Format.twoWords],
      by simp [EA.usesPc, MemEA.usesPc, Format.LowReg]⟩
  · exact ⟨_, rfl, by simp [encodeEA, encodeMem, Format.words, Format.twoWords],
      by simp [EA.usesPc, MemEA.usesPc, Format.LowReg]⟩

/-! ### The rows of the opcode map -/

theorem encode_twoOperand {row : Nat} {mk : Reg → EA → Instr} (h : twoOperand row = some mk) (rd : Reg) (ea : EA) :
    encode (mk rd ea) = encodeEA row rd.num ea := by
  unfold twoOperand at h
  split at h <;> cases h <;> rfl

theorem usesPc_twoOperand {row : Nat} {mk : Reg → EA → Instr} (h : twoOperand row = some mk) (rd : Reg) (ea : EA) :
    (mk rd ea).usesPc = (rd.isPc || ea.usesPc) := by
  unfold twoOperand at h
  split at h <;> cases h <;> rfl

/-- The rows of MULL and DIVL are 01101 and 01110 (42_mul_div.md R144). -/
theorem badPair_twoOperand {row : Nat} {mk : Reg → EA → Instr} (h : twoOperand row = some mk) (rd : Reg) (ea : EA) :
    (mk rd ea).badPair = (decide (row = 13 ∨ row = 14) && !rd.isPairLow) := by
  unfold twoOperand at h
  split at h <;> cases h <;> rfl

theorem encode_jumpOf {cond : Nibble} {mk : JumpEA → Instr} (h : jumpOf cond = some mk) (ea : JumpEA) :
    encode (mk ea) = encodeJump 20 cond ea := by
  have hcond : cond = BitVec.ofNat 4 cond.toNat := by simp
  unfold jumpOf at h
  split at h <;> cases h <;> (rename_i hdigit; rw [hcond, hdigit]; rfl)

theorem usesPc_jumpOf {cond : Nibble} {mk : JumpEA → Instr} (h : jumpOf cond = some mk) (ea : JumpEA) :
    (mk ea).usesPc = ea.usesPc := by
  unfold jumpOf at h
  split at h <;> cases h <;> rfl

theorem badPair_jumpOf {cond : Nibble} {mk : JumpEA → Instr} (h : jumpOf cond = some mk) (ea : JumpEA) :
    (mk ea).badPair = false := by
  unfold jumpOf at h
  split at h <;> cases h <;> rfl

/-- Digit Dh alone selects no jump (30_encoding.md R100). -/
theorem jumpOf_eq_none {cond : Nibble} : jumpOf cond = none ↔ cond = 13#4 := by
  rw [← Option.isNone_iff_eq_none]
  revert cond; decide

/-! ### The operands of ST, of jumps and calls, and of IN and OUT, as operands of any instruction -/

theorem decodeEA_drct_eq_ok {rx : Nibble} {w2 : Word} {ea : EA} :
    decodeEA .drct rx w2 = .ok ea ↔ rx = 0#4 ∧ .mem (.drct w2) = ea := by
  by_cases h : rx = 0#4 <;> simp [decodeEA, h]

theorem asMem_of_decodeEA {f : Format} {rx : Nibble} {w2 : Word} {ea : EA} (h : decodeEA f rx w2 = .ok ea)
    (hf : f = .drct ∨ f = .idx ∨ f = .fp ∨ f = .indr ∨ f = .bindr) :
    ∃ m, ea.asMem = .ok m ∧ (∀ row rd, encodeMem row rd m = encodeEA row rd ea) ∧ m.usesPc = ea.usesPc := by
  obtain rfl | rfl | rfl | rfl | rfl := hf
  · obtain ⟨-, rfl⟩  := decodeEA_drct_eq_ok.1 h
    exact ⟨_, rfl, fun _ _ => rfl, rfl⟩
  all_goals cases h; exact ⟨_, rfl, fun _ _ => rfl, rfl⟩

theorem asJump_of_decodeEA {f : Format} {rx : Nibble} {w2 : Word} {ea : EA} (h : decodeEA f rx w2 = .ok ea)
    (hf : f = .drct ∨ f = .idx ∨ f = .indr) :
    ∃ j, ea.asJump = .ok j ∧ (∀ row cond, encodeJump row cond j = encodeEA row cond ea) ∧ j.usesPc = ea.usesPc := by
  obtain rfl | rfl | rfl := hf
  · obtain ⟨-, rfl⟩  := decodeEA_drct_eq_ok.1 h
    exact ⟨_, rfl, fun _ _ => rfl, rfl⟩
  all_goals cases h; exact ⟨_, rfl, fun _ _ => rfl, rfl⟩

theorem asPort_of_decodeEA {f : Format} {rx : Nibble} {w2 : Word} {ea : EA} (h : decodeEA f rx w2 = .ok ea)
    (hf : f = .drct ∨ f = .indr ∨ f = .bindr) :
    ∃ p, ea.asPort = .ok p ∧ (∀ row rd, encodePort row rd p = encodeEA row rd ea) ∧ p.usesPc = ea.usesPc := by
  obtain rfl | rfl | rfl := hf
  · obtain ⟨-, rfl⟩  := decodeEA_drct_eq_ok.1 h
    exact ⟨_, rfl, fun _ _ => rfl, rfl⟩
  all_goals cases h; exact ⟨_, rfl, fun _ _ => rfl, rfl⟩

/-! ### What a cell answers -/

/-- The fields that the format, or the row of CALL, shows as 0h are zero (30_encoding.md R84, R98). -/
structure ZeroFields (row : Nat) (f : Format) (rd rx : Nibble) : Prop where
  low : f.LowZero → rx = 0#4
  fixed : f = .noOperand → rd = 0#4 ∧ rx = 0#4
  call : row = 21 → rd = 0#4

/-- How an instruction stands to the fields it was read from: its words are those fields; it names PC exactly where a register
field is Fh (the Rd field of rows 20 and 21 is no register); and its pair is bad exactly as its Rd says. -/
structure ReadFrom (row col : Nat) (f : Format) (rd rx : Nibble) (w2 : Word) (i : Instr) : Prop where
  encode_eq : encode i = f.words (packWord (opByte row col) rd rx) w2
  usesPc_iff : i.usesPc = true ↔ (f ≠ .noOperand ∧ row ≠ 20 ∧ row ≠ 21 ∧ rd = 15#4) ∨ (rx = 15#4 ∧ f.LowReg)
  badPair_eq : i.badPair = (decide (row = 13 ∨ row = 14) && !(Reg.ofNum rd).isPairLow)

/-- Everything the cell of a row, a column and a format can answer. -/
inductive CellAnswer (row col : Nat) (f : Format) (rd rx : Nibble) (w2 : Word) : Except WordError Instr → Prop
  /-- jump condition Dh -/
  | badCondition (hf : f ≠ .noOperand) (hrow : row = 20) (hrd : rd = 13#4) :
    CellAnswer row col f rd rx w2 (.error .jumpConditionD)
  /-- a field shown as 0h is not zero -/
  | badField (hcond : ¬ (row = 20 ∧ rd = 13#4)) (hzero : ¬ ZeroFields row f rd rx) :
    CellAnswer row col f rd rx w2 (.error .nonZeroField)
  /-- an instruction -/
  | instr {i : Instr} (hcond : ¬ (row = 20 ∧ rd = 13#4)) (hzero : ZeroFields row f rd rx)
      (hread : ReadFrom row col f rd rx w2 i) : CellAnswer row col f rd rx w2 (.ok i)

section
variable {row col : Nat} {f : Format} {rd rx : Nibble} {w2 : Word}

theorem ne_of_modeFormat (hf : modeFormat col = some f) : f ≠ .oneReg ∧ f ≠ .noOperand := by
  unfold modeFormat at hf
  split at hf <;> cases hf <;> simp

/-- A cell with an operand, from what it makes of the operand. -/
theorem cellAnswer_operand (hf : modeFormat col = some f) (hcond : ¬ (row = 20 ∧ rd = 13#4)) (hcall : row = 21 → rd = 0#4)
    (herr : decodeEA f rx w2 = .error .nonZeroField → decodeCell row col f rd rx w2 = .error .nonZeroField)
    (hok : ∀ ea, decodeEA f rx w2 = .ok ea → ∃ i, decodeCell row col f rd rx w2 = .ok i ∧
      encode i = encodeEA row rd ea ∧ i.usesPc = (decide (row ≠ 20 ∧ row ≠ 21 ∧ rd = 15#4) || ea.usesPc) ∧
      i.badPair = (decide (row = 13 ∨ row = 14) && !(Reg.ofNum rd).isPairLow)) :
    CellAnswer row col f rd rx w2 (decodeCell row col f rd rx w2) := by
  have hno := (ne_of_modeFormat hf).2
  by_cases hlow : f.LowZero → rx = 0#4
  · obtain ⟨ea, hea, henc, hpc⟩ := decodeEA_of_zero hf hlow w2
    obtain ⟨i, hi, hwords, huses, hpair⟩ := hok ea hea
    rw [hi]
    exact .instr hcond ⟨hlow, fun h => absurd h hno, hcall⟩ ⟨hwords.trans (henc row rd), by simp [huses, hpc, hno], hpair⟩
  · obtain ⟨hz, hrx⟩ := Classical.not_imp.1 hlow
    rw [herr (decodeEA_of_nonZero hf hz hrx w2)]
    exact .badField hcond fun h => hlow h.low

theorem cellAnswer_twoOperand {mk : Reg → EA → Instr} (hmk : twoOperand row = some mk) (hf : modeFormat col = some f) :
    CellAnswer row col f rd rx w2 (decodeCell row col f rd rx w2) := by
  have hcell : decodeCell row col f rd rx w2 = (decodeEA f rx w2).map (mk (.ofNum rd)) := by simp [decodeCell, hmk]
  have hrow : row ≠ 20 ∧ row ≠ 21 := by constructor <;> rintro rfl <;> cases hmk
  refine cellAnswer_operand hf (fun h => hrow.1 h.1) (fun h => absurd h hrow.2) (fun h => by rw [hcell, h]; rfl) fun ea h => ?_
  refine ⟨mk (.ofNum rd) ea, by rw [hcell, h]; rfl, by simp [encode_twoOperand hmk], ?_, badPair_twoOperand hmk _ _⟩
  rw [usesPc_twoOperand hmk, Bool.eq_iff_iff]
  simp [hrow]

theorem cellAnswer_st (hf : modeFormat col = some f) (hadm : f = .drct ∨ f = .idx ∨ f = .fp ∨ f = .indr ∨ f = .bindr)
    (hcell : decodeCell 2 col f rd rx w2 = ((decodeEA f rx w2).bind EA.asMem).map (.st (.ofNum rd))) :
    CellAnswer 2 col f rd rx w2 (decodeCell 2 col f rd rx w2) := by
  refine cellAnswer_operand hf (by simp) (by simp) (fun h => by rw [hcell, h]; rfl) fun ea h => ?_
  obtain ⟨m, hm, henc, hpc⟩ := asMem_of_decodeEA h hadm
  refine ⟨.st (.ofNum rd) m, by rw [hcell, h, Except.bind, hm]; rfl, by simp [encode, henc], ?_, rfl⟩
  rw [Instr.usesPc, hpc, Bool.eq_iff_iff]
  simp

theorem cellAnswer_jump (hf : modeFormat col = some f) (hadm : f = .drct ∨ f = .idx ∨ f = .indr) :
    CellAnswer 20 col f rd rx w2 (decodeCell 20 col f rd rx w2) := by
  cases hj : jumpOf rd with
  | none =>
    have hcell : decodeCell 20 col f rd rx w2 = .error .jumpConditionD := by simp [decodeCell, twoOperand, hj]
    rw [hcell]
    exact .badCondition (ne_of_modeFormat hf).2 rfl (jumpOf_eq_none.1 hj)
  | some mk =>
    have hcell : decodeCell 20 col f rd rx w2 = ((decodeEA f rx w2).bind EA.asJump).map mk := by
      simp [decodeCell, twoOperand, hj]
    have hcond : ¬ (20 = 20 ∧ rd = 13#4) := fun h => by simp [jumpOf_eq_none.2 h.2] at hj
    refine cellAnswer_operand hf hcond (by simp) (fun h => by rw [hcell, h]; rfl) fun ea h => ?_
    obtain ⟨j, hj', henc, hpc⟩ := asJump_of_decodeEA h hadm
    exact ⟨mk j, by rw [hcell, h, Except.bind, hj']; rfl, by rw [encode_jumpOf hj, henc],
      by rw [usesPc_jumpOf hj, hpc]; rfl, badPair_jumpOf hj j⟩

theorem cellAnswer_call (hf : modeFormat col = some f) (hadm : f = .drct ∨ f = .idx ∨ f = .indr) :
    CellAnswer 21 col f rd rx w2 (decodeCell 21 col f rd rx w2) := by
  by_cases hrd : rd = 0#4
  · have hcell : decodeCell 21 col f rd rx w2 = ((decodeEA f rx w2).bind EA.asJump).map .call := by
      simp [decodeCell, twoOperand, hrd]
    refine cellAnswer_operand hf (by simp) (fun _ => hrd) (fun h => by rw [hcell, h]; rfl) fun ea h => ?_
    obtain ⟨j, hj, henc, hpc⟩ := asJump_of_decodeEA h hadm
    exact ⟨.call j, by rw [hcell, h, Except.bind, hj]; rfl, by rw [encode, henc, hrd], hpc, rfl⟩
  · have hcell : decodeCell 21 col f rd rx w2 = .error .nonZeroField := by simp [decodeCell, twoOperand, hrd]
    rw [hcell]
    exact .badField (by simp) fun h => hrd (h.call rfl)

theorem cellAnswer_port {mk : Reg → PortEA → Instr} (hrow : row = 22 ∨ row = 23) (hf : modeFormat col = some f)
    (hadm : f = .drct ∨ f = .indr ∨ f = .bindr)
    (hcell : decodeCell row col f rd rx w2 = ((decodeEA f rx w2).bind EA.asPort).map (mk (.ofNum rd)))
    (hwords : ∀ r p, encode (mk r p) = encodePort row r.num p) (hpc : ∀ r p, (mk r p).usesPc = (r.isPc || p.usesPc))
    (hpair : ∀ r p, (mk r p).badPair = false) :
    CellAnswer row col f rd rx w2 (decodeCell row col f rd rx w2) := by
  have hne : row ≠ 13 ∧ row ≠ 14 ∧ row ≠ 20 ∧ row ≠ 21 := by omega
  refine cellAnswer_operand hf (by simp [hne]) (by simp [hne]) (fun h => by rw [hcell, h]; rfl) fun ea h => ?_
  obtain ⟨p, hp, henc, huses⟩ := asPort_of_decodeEA h hadm
  refine ⟨mk (.ofNum rd) p, by rw [hcell, h, Except.bind, hp]; rfl, by simp [hwords, henc], ?_, by simp [hpair, hne]⟩
  rw [hpc, huses, Bool.eq_iff_iff]
  simp [hne]

theorem cellAnswer_oneReg {mk : Reg → Instr} (hrow : row ≠ 13 ∧ row ≠ 14 ∧ row ≠ 20 ∧ row ≠ 21)
    (hcell : decodeCell row col .oneReg rd rx w2 = zeroField rx (mk (.ofNum rd)))
    (henc : encode (mk (.ofNum rd)) = [packWord (opByte row col) (Reg.ofNum rd).num 0#4])
    (hpc : (mk (.ofNum rd)).usesPc = (Reg.ofNum rd).isPc) (hpair : (mk (.ofNum rd)).badPair = false) :
    CellAnswer row col .oneReg rd rx w2 (decodeCell row col .oneReg rd rx w2) := by
  rw [hcell, zeroField]
  split
  · next hrx =>
    exact .instr (by simp [hrow]) ⟨fun _ => hrx, by simp, by simp [hrow]⟩
      ⟨by simp [henc, hrx, Format.words, Format.twoWords], by simp [hpc, hrow, Format.LowReg], by simp [hpair, hrow]⟩
  · next hrx => exact .badField (by simp [hrow]) fun h => hrx (h.low (.inr (.inr rfl)))

theorem cellAnswer_noOperand {i : Instr} (hrow : row ≠ 13 ∧ row ≠ 14 ∧ row ≠ 20 ∧ row ≠ 21)
    (hcell : decodeCell row col .noOperand rd rx w2 = zeroField (rd ||| rx) i)
    (henc : encode i = [packWord (opByte row col) 0#4 0#4]) (hpc : i.usesPc = false) (hpair : i.badPair = false) :
    CellAnswer row col .noOperand rd rx w2 (decodeCell row col .noOperand rd rx w2) := by
  rw [hcell, zeroField]
  split
  · next h =>
    obtain ⟨rfl, rfl⟩ := BitVec.or_eq_zero_iff.1 h
    exact .instr (by simp [hrow]) ⟨by simp, by simp, by simp⟩
      ⟨henc, by simp [hpc], by simp [hpair, hrow]⟩
  · next h => exact .badField (by simp [hrow]) fun hz => h (by simp [hz.fixed rfl])

/-- What a non-blank cell of the opcode map answers, for every value of the other fields (30_encoding.md R84 to R100). -/
theorem decodeCell_answer (h : opCell row col = some f) : CellAnswer row col f rd rx w2 (decodeCell row col f rd rx w2) := by
  unfold opCell at h
  split at h
  · next mk hmk => exact cellAnswer_twoOperand hmk h
  · next hmk =>
    split at h <;> cases h
    · exact cellAnswer_noOperand (i := .no) (by simp) rfl rfl rfl rfl
    · exact cellAnswer_st rfl (by simp) rfl
    · exact cellAnswer_st rfl (by simp) rfl
    · exact cellAnswer_st rfl (by simp) rfl
    · exact cellAnswer_oneReg (mk := .ldFlag) (by simp) rfl rfl rfl rfl
    · exact cellAnswer_st rfl (by simp) rfl
    · exact cellAnswer_st rfl (by simp) rfl
    · exact cellAnswer_jump rfl (by simp)
    · exact cellAnswer_jump rfl (by simp)
    · exact cellAnswer_jump rfl (by simp)
    · exact cellAnswer_call rfl (by simp)
    · exact cellAnswer_call rfl (by simp)
    · exact cellAnswer_call rfl (by simp)
    · exact cellAnswer_port (mk := .inp) (.inl rfl) rfl (by simp) rfl (fun _ _ => rfl) (fun _ _ => rfl) fun _ _ => rfl
    · exact cellAnswer_port (mk := .inp) (.inl rfl) rfl (by simp) rfl (fun _ _ => rfl) (fun _ _ => rfl) fun _ _ => rfl
    · exact cellAnswer_port (mk := .inp) (.inl rfl) rfl (by simp) rfl (fun _ _ => rfl) (fun _ _ => rfl) fun _ _ => rfl
    · exact cellAnswer_port (mk := .outp) (.inr rfl) rfl (by simp) rfl (fun _ _ => rfl) (fun _ _ => rfl) fun _ _ => rfl
    · exact cellAnswer_port (mk := .outp) (.inr rfl) rfl (by simp) rfl (fun _ _ => rfl) (fun _ _ => rfl) fun _ _ => rfl
    · exact cellAnswer_port (mk := .outp) (.inr rfl) rfl (by simp) rfl (fun _ _ => rfl) (fun _ _ => rfl) fun _ _ => rfl
    · exact cellAnswer_oneReg (mk := .push) (by simp) rfl rfl rfl rfl
    · exact cellAnswer_oneReg (mk := .pop) (by simp) rfl rfl rfl rfl
    · exact cellAnswer_noOperand (i := .ret) (by simp) rfl rfl rfl rfl
    · exact cellAnswer_noOperand (i := .reti) (by simp) rfl rfl rfl rfl
    · exact cellAnswer_noOperand (i := .ei) (by simp) rfl rfl rfl rfl
    · exact cellAnswer_noOperand (i := .di) (by simp) rfl rfl rfl rfl
    · exact cellAnswer_noOperand (i := .svc) (by simp) rfl rfl rfl rfl
    · exact cellAnswer_noOperand (i := .halt) (by simp) rfl rfl rfl rfl

end

end Sys2Proof
end

-- Family 30_encoding.md: the encoder and the decoder agree (R81 to R100).
section
/-! SUPPORT. Every instruction is the answer of a cell; so the decoder of words, and of bytes, reads exactly the encodings of the
well-formed instructions (30_encoding.md R81 to R100). -/

namespace Sys2Proof

/-! ### Every instruction is the answer of a cell -/

/-- Some cell of the opcode map answers the instruction for some value of the other fields. -/
def HasCell (i : Instr) : Prop :=
  ∃ row col f rd rx w2, opCell row col = some f ∧ decodeCell row col f rd rx w2 = .ok i

theorem exists_decodeEA (ea : EA) : ∃ col f rx w2, modeFormat col = some f ∧ decodeEA f rx w2 = .ok ea := by
  cases ea with
  | mem m =>
    cases m with
    | drct dsp => exact ⟨0, .drct, 0#4, dsp, rfl, rfl⟩
    | idx dsp rx => exact ⟨1, .idx, rx.num, dsp, rfl, by simp [decodeEA]⟩
    | fp d4 => exact ⟨3, .fp, d4, 0#16, rfl, rfl⟩
    | indr rx => exact ⟨6, .indr, rx.num, 0#16, rfl, by simp [decodeEA]⟩
    | bindr rx => exact ⟨7, .bindr, rx.num, 0#16, rfl, by simp [decodeEA]⟩
  | imm w => exact ⟨2, .imm, 0#4, w, rfl, rfl⟩
  | reg rs => exact ⟨4, .reg, rs.num, 0#16, rfl, by simp [decodeEA]⟩
  | imm4 i4 => exact ⟨5, .imm4, i4, 0#16, rfl, rfl⟩

theorem hasCell_twoOperand {row : Nat} {mk : Reg → EA → Instr} (h : twoOperand row = some mk) (rd : Reg) (ea : EA) :
    HasCell (mk rd ea) := by
  obtain ⟨col, f, rx, w2, hf, hea⟩ := exists_decodeEA ea
  exact ⟨row, col, f, rd.num, rx, w2, by simp [opCell, h, hf], by simp [decodeCell, h, hea, Except.map]⟩

theorem hasCell_st (rd : Reg) (m : MemEA) : HasCell (.st rd m) := by
  rw [← Reg.ofNum_num rd]
  cases m with
  | drct dsp => exact ⟨2, 0, .drct, rd.num, 0#4, dsp, rfl, rfl⟩
  | idx dsp rx => rw [← Reg.ofNum_num rx]; exact ⟨2, 1, .idx, rd.num, rx.num, dsp, rfl, rfl⟩
  | fp d4 => exact ⟨2, 3, .fp, rd.num, d4, 0#16, rfl, rfl⟩
  | indr rx => rw [← Reg.ofNum_num rx]; exact ⟨2, 6, .indr, rd.num, rx.num, 0#16, rfl, rfl⟩
  | bindr rx => rw [← Reg.ofNum_num rx]; exact ⟨2, 7, .bindr, rd.num, rx.num, 0#16, rfl, rfl⟩

theorem hasCell_jumpEA {row : Nat} {rd : Nibble} {mk : JumpEA → Instr} (hdrct : opCell row 0 = some .drct)
    (hidx : opCell row 1 = some .idx) (hindr : opCell row 6 = some .indr)
    (hcell : ∀ col f rx w2, decodeCell row col f rd rx w2 = ((decodeEA f rx w2).bind EA.asJump).map mk) (ea : JumpEA) :
    HasCell (mk ea) := by
  cases ea with
  | drct dsp => exact ⟨row, 0, .drct, rd, 0#4, dsp, hdrct, hcell _ _ _ _⟩
  | idx dsp rx => rw [← Reg.ofNum_num rx]; exact ⟨row, 1, .idx, rd, rx.num, dsp, hidx, hcell _ _ _ _⟩
  | indr rx => rw [← Reg.ofNum_num rx]; exact ⟨row, 6, .indr, rd, rx.num, 0#16, hindr, hcell _ _ _ _⟩

theorem hasCell_jump {cond : Nibble} {mk : JumpEA → Instr} (h : jumpOf cond = some mk) (ea : JumpEA) : HasCell (mk ea) :=
  hasCell_jumpEA (row := 20) (rd := cond) rfl rfl rfl (fun _ _ _ _ => by simp [decodeCell, twoOperand, h]) ea

theorem hasCell_port {row : Nat} {mk : Reg → PortEA → Instr} (hdrct : opCell row 0 = some .drct)
    (hindr : opCell row 6 = some .indr) (hbindr : opCell row 7 = some .bindr)
    (hcell : ∀ col f rd rx w2,
      decodeCell row col f rd rx w2 = ((decodeEA f rx w2).bind EA.asPort).map (mk (.ofNum rd))) (rd : Reg) (ea : PortEA) :
    HasCell (mk rd ea) := by
  rw [← Reg.ofNum_num rd]
  cases ea with
  | drct dsp => exact ⟨row, 0, .drct, rd.num, 0#4, dsp, hdrct, hcell _ _ _ _ _⟩
  | indr rx => rw [← Reg.ofNum_num rx]; exact ⟨row, 6, .indr, rd.num, rx.num, 0#16, hindr, hcell _ _ _ _ _⟩
  | bindr rx => rw [← Reg.ofNum_num rx]; exact ⟨row, 7, .bindr, rd.num, rx.num, 0#16, hbindr, hcell _ _ _ _ _⟩

theorem hasCell_oneReg {row col : Nat} {mk : Reg → Instr} (rd : Reg) (h : opCell row col = some .oneReg)
    (hcell : decodeCell row col .oneReg rd.num 0#4 0#16 = .ok (mk (.ofNum rd.num))) : HasCell (mk rd) :=
  ⟨row, col, .oneReg, rd.num, 0#4, 0#16, h, by rw [hcell, Reg.ofNum_num]⟩

/-- The opcode map has a cell for every instruction (30_encoding.md R94, R95). -/
theorem hasCell (i : Instr) : HasCell i := by
  cases i with
  | no => exact ⟨0, 0, .noOperand, 0#4, 0#4, 0#16, rfl, rfl⟩
  | ld rd ea => exact hasCell_twoOperand (row := 1) rfl rd ea
  | st rd ea => exact hasCell_st rd ea
  | ldFlag rd => exact hasCell_oneReg (row := 2) (col := 4) rd rfl rfl
  | add rd ea => exact hasCell_twoOperand (row := 3) rfl rd ea
  | sub rd ea => exact hasCell_twoOperand (row := 4) rfl rd ea
  | cmp rd ea => exact hasCell_twoOperand (row := 5) rfl rd ea
  | and rd ea => exact hasCell_twoOperand (row := 6) rfl rd ea
  | or rd ea => exact hasCell_twoOperand (row := 7) rfl rd ea
  | xor rd ea => exact hasCell_twoOperand (row := 8) rfl rd ea
  | adds rd ea => exact hasCell_twoOperand (row := 9) rfl rd ea
  | mul rd ea => exact hasCell_twoOperand (row := 10) rfl rd ea
  | div rd ea => exact hasCell_twoOperand (row := 11) rfl rd ea
  | mod rd ea => exact hasCell_twoOperand (row := 12) rfl rd ea
  | mull rd ea => exact hasCell_twoOperand (row := 13) rfl rd ea
  | divl rd ea => exact hasCell_twoOperand (row := 14) rfl rd ea
  | shla rd ea => exact hasCell_twoOperand (row := 16) rfl rd ea
  | shll rd ea => exact hasCell_twoOperand (row := 17) rfl rd ea
  | shra rd ea => exact hasCell_twoOperand (row := 18) rfl rd ea
  | shrl rd ea => exact hasCell_twoOperand (row := 19) rfl rd ea
  | jz ea => exact hasCell_jump (cond := 0#4) rfl ea
  | jc ea => exact hasCell_jump (cond := 1#4) rfl ea
  | jm ea => exact hasCell_jump (cond := 2#4) rfl ea
  | jo ea => exact hasCell_jump (cond := 3#4) rfl ea
  | jgt ea => exact hasCell_jump (cond := 4#4) rfl ea
  | jge ea => exact hasCell_jump (cond := 5#4) rfl ea
  | jle ea => exact hasCell_jump (cond := 6#4) rfl ea
  | jlt ea => exact hasCell_jump (cond := 7#4) rfl ea
  | jnz ea => exact hasCell_jump (cond := 8#4) rfl ea
  | jnc ea => exact hasCell_jump (cond := 9#4) rfl ea
  | jnm ea => exact hasCell_jump (cond := 10#4) rfl ea
  | jno ea => exact hasCell_jump (cond := 11#4) rfl ea
  | jhi ea => exact hasCell_jump (cond := 12#4) rfl ea
  | jls ea => exact hasCell_jump (cond := 14#4) rfl ea
  | jmp ea => exact hasCell_jump (cond := 15#4) rfl ea
  | call ea => exact hasCell_jumpEA (row := 21) (rd := 0#4) rfl rfl rfl (fun _ _ _ _ => rfl) ea
  | inp rd ea => exact hasCell_port (row := 22) rfl rfl rfl (fun _ _ _ _ _ => rfl) rd ea
  | outp rd ea => exact hasCell_port (row := 23) rfl rfl rfl (fun _ _ _ _ _ => rfl) rd ea
  | push rd => exact hasCell_oneReg (row := 24) (col := 0) rd rfl rfl
  | pop rd => exact hasCell_oneReg (row := 24) (col := 4) rd rfl rfl
  | ret => exact ⟨26, 0, .noOperand, 0#4, 0#4, 0#16, rfl, rfl⟩
  | reti => exact ⟨26, 4, .noOperand, 0#4, 0#4, 0#16, rfl, rfl⟩
  | ei => exact ⟨28, 0, .noOperand, 0#4, 0#4, 0#16, rfl, rfl⟩
  | di => exact ⟨28, 4, .noOperand, 0#4, 0#4, 0#16, rfl, rfl⟩
  | svc => exact ⟨30, 0, .noOperand, 0#4, 0#4, 0#16, rfl, rfl⟩
  | halt => exact ⟨31, 7, .noOperand, 0#4, 0#4, 0#16, rfl, rfl⟩

theorem modeFormat_lt {col : Nat} {f : Format} (h : modeFormat col = some f) : col < 8 := by
  unfold modeFormat at h
  split at h <;> cases h <;> decide

theorem twoOperand_lt {row : Nat} {mk : Reg → EA → Instr} (h : twoOperand row = some mk) : row < 32 := by
  unfold twoOperand at h
  split at h <;> cases h <;> decide

/-- A non-blank cell lies in the map (30_encoding.md R94). -/
theorem opCell_lt {row col : Nat} {f : Format} (h : opCell row col = some f) : row < 32 ∧ col < 8 := by
  unfold opCell at h
  split at h
  · next mk hmk => exact ⟨twoOperand_lt hmk, modeFormat_lt h⟩
  · split at h <;> cases h <;> decide

/-! ### Whole words -/

theorem checkWellFormed_of_usesPc {i : Instr} (h : i.usesPc = true) : checkWellFormed i = .error .pcOperand := if_pos h

theorem checkWellFormed_of_badPair {i : Instr} (hpc : i.usesPc = false) (h : i.badPair = true) :
    checkWellFormed i = .error .badRegisterPair := by
  simp [checkWellFormed, hpc, h]

theorem checkWellFormed_of_wellFormed {i : Instr} (h : i.wellFormed = true) : checkWellFormed i = .ok i := by
  obtain ⟨hpc, hpair⟩ := Machine.wellFormed_iff.1 h
  simp [checkWellFormed, hpc, hpair]

theorem checkWellFormed_eq_ok {i j : Instr} (h : checkWellFormed i = .ok j) : i = j ∧ i.wellFormed = true := by
  cases hpc : i.usesPc with
  | true => simp [checkWellFormed_of_usesPc hpc] at h
  | false =>
    cases hpair : i.badPair with
    | true => simp [checkWellFormed_of_badPair hpc hpair] at h
    | false =>
      have hwf := Machine.wellFormed_iff.2 ⟨hpc, hpair⟩
      exact ⟨by simpa [checkWellFormed_of_wellFormed hwf] using h, hwf⟩

section
variable {w1 w2 : Word} {f : Format} {i : Instr}

theorem decodeWords_of_cell (h : opCell (opRow (opField w1)) (opCol (opField w1)) = some f) (w2 : Word) :
    decodeWords w1 w2 =
      (decodeCell (opRow (opField w1)) (opCol (opField w1)) f (rdField w1) (rxField w1) w2).bind checkWellFormed := by
  simp only [decodeWords, h]

theorem needsSecondWord_of_cell (h : opCell (opRow (opField w1)) (opCol (opField w1)) = some f) :
    needsSecondWord w1 = some f.twoWords := by
  rw [needsSecondWord, h, Option.map_some]

/-- What the decoder answers comes from a cell, has the words it was read from, and is well formed. -/
theorem decodeWords_eq_ok (h : decodeWords w1 w2 = .ok i) :
    ∃ f, opCell (opRow (opField w1)) (opCol (opField w1)) = some f ∧ encode i = f.words w1 w2 ∧ i.wellFormed = true := by
  cases hcell : opCell (opRow (opField w1)) (opCol (opField w1)) with
  | none => simp [decodeWords, hcell] at h
  | some f =>
    rw [decodeWords_of_cell hcell] at h
    have hans := decodeCell_answer (rd := rdField w1) (rx := rxField w1) (w2 := w2) hcell
    cases hans' : decodeCell (opRow (opField w1)) (opCol (opField w1)) f (rdField w1) (rxField w1) w2 with
    | error e => simp [hans', Except.bind] at h
    | ok j =>
      rw [hans'] at h hans
      obtain ⟨rfl, hwf⟩ := checkWellFormed_eq_ok h
      cases hans with
      | instr hcond hzero hread => exact ⟨f, rfl, by simpa using hread.encode_eq, hwf⟩

/-- A well-formed instruction is what the decoder answers for some words. -/
theorem exists_decodeWords (h : i.wellFormed = true) : ∃ w1 w2, decodeWords w1 w2 = .ok i := by
  obtain ⟨row, col, f, rd, rx, w2, hcell, hi⟩ := hasCell i
  obtain ⟨hr, hc⟩ := opCell_lt hcell
  refine ⟨packWord (opByte row col) rd rx, w2, ?_⟩
  rw [decodeWords_of_cell (f := f) (by simpa [opRow_opByte hr hc, opCol_opByte hc] using hcell)]
  simpa [opRow_opByte hr hc, opCol_opByte hc, hi, Except.bind] using checkWellFormed_of_wellFormed h

/-- A cell reads the second word through its operand alone. -/
theorem decodeCell_congr {row col : Nat} {rd rx : Nibble} {w2' : Word} (h : decodeEA f rx w2 = decodeEA f rx w2') :
    decodeCell row col f rd rx w2 = decodeCell row col f rd rx w2' := by
  unfold decodeCell
  rw [h]

theorem decodeEA_of_oneWord (h : f.twoWords = false) (rx : Nibble) (w2 w2' : Word) : decodeEA f rx w2 = decodeEA f rx w2' := by
  cases f <;> simp_all [decodeEA, Format.twoWords]

/-- The second word does not matter where the format has none (30_encoding.md R99). -/
theorem decodeWords_of_oneWord (h : needsSecondWord w1 ≠ some true) (w2 w2' : Word) : decodeWords w1 w2 = decodeWords w1 w2' := by
  cases hcell : opCell (opRow (opField w1)) (opCol (opField w1)) with
  | none => simp [decodeWords, hcell]
  | some f =>
    have htwo : f.twoWords = false := by simpa [needsSecondWord_of_cell hcell] using h
    rw [decodeWords_of_cell hcell, decodeWords_of_cell hcell, decodeCell_congr (decodeEA_of_oneWord htwo _ w2 w2')]

/-! ### Bytes -/

theorem headInstr_eq_ok {r : Except WordError Instr} {rest rest' : List Byte} (h : headInstr r rest = .ok (i, rest')) :
    r = .ok i ∧ rest = rest' := by
  cases r <;> simp_all [headInstr]

theorem decode_of_oneWord {b0 b1 : Byte} (h : needsSecondWord (wordOfBytes b0 b1) = some false) (rest : List Byte) :
    decode (b0 :: b1 :: rest) = headInstr (decodeWords (wordOfBytes b0 b1) 0#16) rest := by
  simp [decode, h]

theorem decode_of_twoWords {b0 b1 : Byte} (h : needsSecondWord (wordOfBytes b0 b1) = some true) (b2 b3 : Byte)
    (rest : List Byte) :
    decode (b0 :: b1 :: b2 :: b3 :: rest) = headInstr (decodeWords (wordOfBytes b0 b1) (wordOfBytes b2 b3)) rest := by
  simp [decode, h]

theorem encodeBytes_of_words (h : encode i = f.words w1 w2) :
    encodeBytes i = if f.twoWords then [hiByte w1, loByte w1, hiByte w2, loByte w2] else [hiByte w1, loByte w1] := by
  rw [encodeBytes, h, Format.words]
  split <;> rfl

/-- Decoding bytes that begin with the words of an instruction, in terms of the decoder of words. -/
theorem decode_encodeBytes (h : decodeWords w1 w2 = .ok i) (rest : List Byte) :
    decode (encodeBytes i ++ rest) = .ok (i, rest) := by
  obtain ⟨f, hcell, hwords, -⟩ := decodeWords_eq_ok h
  have hneeds := needsSecondWord_of_cell hcell
  rw [encodeBytes_of_words hwords]
  cases htwo : f.twoWords with
  | false =>
    rw [htwo] at hneeds
    rw [decodeWords_of_oneWord (by simp [hneeds]) w2 0#16] at h
    simpa [h, headInstr] using decode_of_oneWord (b0 := hiByte w1) (b1 := loByte w1) (by simpa using hneeds) rest
  | true =>
    rw [htwo] at hneeds
    simpa [h, headInstr] using
      decode_of_twoWords (b0 := hiByte w1) (b1 := loByte w1) (by simpa using hneeds) (hiByte w2) (loByte w2) rest

/-- What is read from the words at the head of a list of bytes has those bytes as its encoding. -/
theorem encodeBytes_of_headInstr {two : Bool} {rest rest' : List Byte} (hneeds : needsSecondWord w1 = some two)
    (h : headInstr (decodeWords w1 w2) rest' = .ok (i, rest)) :
    i.wellFormed = true ∧
      encodeBytes i ++ rest = (if two then [hiByte w1, loByte w1, hiByte w2, loByte w2] else [hiByte w1, loByte w1]) ++ rest' := by
  obtain ⟨hw, rfl⟩ := headInstr_eq_ok h
  obtain ⟨f, hcell, hwords, hwf⟩ := decodeWords_eq_ok hw
  have htwo : f.twoWords = two := by simpa [needsSecondWord_of_cell hcell] using hneeds
  exact ⟨hwf, by rw [encodeBytes_of_words hwords, htwo]⟩

end

/-- Settles O1: a well-formed instruction is what the decoder answers for some words, and those words are its encoding. -/
theorem decodeAfterEncode : Obligations.DecodeAfterEncode := by
  intro i rest hwf
  obtain ⟨w1, w2, h⟩ := exists_decodeWords hwf
  exact decode_encodeBytes h rest

/-- Settles O2: the words a well-formed instruction was read from are its encoding, and their bytes are those taken. -/
theorem encodeAfterDecode : Obligations.EncodeAfterDecode := by
  intro bytes rest i h
  match bytes, h with
  | b0 :: b1 :: rest0, h =>
    cases hneeds : needsSecondWord (wordOfBytes b0 b1) with
    | none => simp [decode, hneeds] at h
    | some two =>
      cases two with
      | false =>
        rw [decode_of_oneWord hneeds] at h
        simpa using encodeBytes_of_headInstr hneeds h
      | true =>
        match rest0, h with
        | b2 :: b3 :: rest1, h =>
          rw [decode_of_twoWords hneeds] at h
          simpa using encodeBytes_of_headInstr hneeds h
        | [], h => simp [decode, hneeds] at h
        | [b2], h => simp [decode, hneeds] at h
  | [], h => cases h
  | [b0], h => cases h

end Sys2Proof
end

-- Family 30_encoding.md: the fetch, the length and the blank OP values (R80, R97, R99).
section
/-! SUPPORT. The fetch of words in memory: the length of what is fetched, the instruction that runs, and the trap of a
blank OP (30_encoding.md R80, R97, R99; 60_exceptions.md R205). -/

namespace Sys2Proof.Machine

/-! ### The fetch, from the words at PC -/

section
variable {s : State} {w1 w2 : Word} {i : Instr}

theorem step_of_fetch_error {o : Host.Outcome State Fault Refusal} (h : AboutToFetch s) (hf : fetch s = .error o) :
    step s = settle o := by
  obtain ⟨hh, hirq⟩ := h
  simp [step, cpuStep, hh, hirq, hf]

/-- Where OP is defined, the fetch is the decoding of the words, the second one read only where there is one. -/
theorem fetch_of_words (h1 : readWord s .fetch s.pc = .ok w1)
    (h2 : needsSecondWord w1 = some true → readWord s .fetch (s.pc + 2#16) = .ok w2) (hdef : needsSecondWord w1 ≠ none) :
    fetch s = orStop s none (decodeRes w1 w2) := by
  cases hneeds : needsSecondWord w1 with
  | none => exact absurd hneeds hdef
  | some two =>
    cases two with
    | false =>
      have hw : decodeRes w1 0#16 = decodeRes w1 w2 := by
        rw [decodeRes, decodeRes, decodeWords_of_oneWord (by simp [hneeds]) 0#16 w2]
      simp [fetch, h1, hneeds, orStop, Except.bind, hw]
    | true => simp [fetch, h1, h2 hneeds, hneeds, orStop, Except.bind]

/-- A blank OP raises UndefinedInstruction, and its length is not known (30_encoding.md R97; 60_exceptions.md R205). -/
theorem step_of_blank (h : AboutToFetch s) (h1 : readWord s .fetch s.pc = .ok w1) (hblank : needsSecondWord w1 = none) :
    step s = settle (trapEntry 14 (Config.faultPc .undefinedInstruction s.pc none) s) :=
  step_of_fetch_error h (by simp [fetch, h1, hblank, orStop, Except.bind]; rfl)

theorem needsSecondWord_eq_none : needsSecondWord w1 = none ↔ opCell (opRow (opField w1)) (opCol (opField w1)) = none := by
  simp [needsSecondWord]

/-- Words whose OP is blank are no instruction, so those the decoder reads otherwise have a defined OP. -/
theorem decodeWords_of_blank (h : needsSecondWord w1 = none) (w2 : Word) : decodeWords w1 w2 = .error .undefinedOp := by
  simp [decodeWords, needsSecondWord_eq_none.1 h]

theorem step_of_holdsInstr (h : AboutToFetch s) (hi : HoldsInstr s i) : step s = settle (exec i s) := by
  obtain ⟨w1, w2, h1, h2, hw⟩ := hi
  have hdef : needsSecondWord w1 ≠ none := fun hnone => by simp [decodeWords_of_blank hnone] at hw
  obtain ⟨hh, hirq⟩ := h
  exact step_of_fetch hh hirq (by simp [fetch_of_words h1 h2 hdef, decodeRes, hw, orStop])

end

/-- Settles O10: the step runs the instruction that the words at PC hold, and `settle` is the devices' move. -/
theorem stepRunsDecodedInstruction : Obligations.StepRunsDecodedInstruction := by
  intro s i h hi
  rw [step_of_holdsInstr h hi]
  refine ⟨fun t ht => ?_, fun f hf => ?_, fun r hr => ?_⟩
  · rw [ht]; rfl
  · rw [hf]; rfl
  · rw [hr]; rfl

/-! ### The length of an instruction -/

/-- An encoding has as many bytes as its instruction's length says (30_encoding.md R99). -/
theorem encodeBytes_length (i : Instr) : (encodeBytes i).length = i.byteLen := by
  cases i with
  | no => exact Laws.EncodedLength.no
  | ld rd ea => exact Laws.EncodedLength.ld rd ea
  | st rd ea => exact Laws.EncodedLength.st rd ea
  | ldFlag rd => exact Laws.EncodedLength.ldFlag rd
  | add rd ea => exact Laws.EncodedLength.add rd ea
  | sub rd ea => exact Laws.EncodedLength.sub rd ea
  | cmp rd ea => exact Laws.EncodedLength.cmp rd ea
  | and rd ea => exact Laws.EncodedLength.and rd ea
  | or rd ea => exact Laws.EncodedLength.or rd ea
  | xor rd ea => exact Laws.EncodedLength.xor rd ea
  | adds rd ea => exact Laws.EncodedLength.adds rd ea
  | mul rd ea => exact Laws.EncodedLength.mul rd ea
  | div rd ea => exact Laws.EncodedLength.div rd ea
  | mod rd ea => exact Laws.EncodedLength.mod rd ea
  | mull rd ea => exact Laws.EncodedLength.mull rd ea
  | divl rd ea => exact Laws.EncodedLength.divl rd ea
  | shla rd ea => exact Laws.EncodedLength.shla rd ea
  | shll rd ea => exact Laws.EncodedLength.shll rd ea
  | shra rd ea => exact Laws.EncodedLength.shra rd ea
  | shrl rd ea => exact Laws.EncodedLength.shrl rd ea
  | jz ea => exact Laws.EncodedLength.jz ea
  | jc ea => exact Laws.EncodedLength.jc ea
  | jm ea => exact Laws.EncodedLength.jm ea
  | jo ea => exact Laws.EncodedLength.jo ea
  | jgt ea => exact Laws.EncodedLength.jgt ea
  | jge ea => exact Laws.EncodedLength.jge ea
  | jle ea => exact Laws.EncodedLength.jle ea
  | jlt ea => exact Laws.EncodedLength.jlt ea
  | jnz ea => exact Laws.EncodedLength.jnz ea
  | jnc ea => exact Laws.EncodedLength.jnc ea
  | jnm ea => exact Laws.EncodedLength.jnm ea
  | jno ea => exact Laws.EncodedLength.jno ea
  | jhi ea => exact Laws.EncodedLength.jhi ea
  | jls ea => exact Laws.EncodedLength.jls ea
  | jmp ea => exact Laws.EncodedLength.jmp ea
  | call ea => exact Laws.EncodedLength.call ea
  | inp rd ea => exact Laws.EncodedLength.inp rd ea
  | outp rd ea => exact Laws.EncodedLength.outp rd ea
  | push rd => exact Laws.EncodedLength.push rd
  | pop rd => exact Laws.EncodedLength.pop rd
  | ret => exact Laws.EncodedLength.ret
  | reti => exact Laws.EncodedLength.reti
  | ei => exact Laws.EncodedLength.ei
  | di => exact Laws.EncodedLength.di
  | svc => exact Laws.EncodedLength.svc
  | halt => exact Laws.EncodedLength.halt

theorem byteLen_of_decodeWords {w1 w2 : Word} {i : Instr} {two : Bool} (h : decodeWords w1 w2 = .ok i)
    (hneeds : needsSecondWord w1 = some two) : i.byteLen = if two then 4 else 2 := by
  obtain ⟨f, hcell, hwords, -⟩ := decodeWords_eq_ok h
  have htwo : f.twoWords = two := by simpa [needsSecondWord_of_cell hcell] using hneeds
  rw [← encodeBytes_length, encodeBytes_of_words hwords, htwo]
  cases two <;> rfl

theorem opRow_lt (op : BitVec 8) : opRow op < 32 := by
  have := op.isLt
  unfold opRow; omega

theorem opCol_lt (op : BitVec 8) : opCol op < 8 := Nat.mod_lt _ (by decide)

/-- The cells with a two-word format, over the whole opcode map (30_encoding.md R94, R99). -/
theorem opCell_twoWords : ∀ row < 32, ∀ col < 8, ((opCell row col).map Format.twoWords = some true ↔
    1 ≤ row ∧ row ≤ 23 ∧ row ≠ 15 ∧ col ≤ 2 ∧ opCell row col ≠ none) := by decide

/-- Settles O4: the opcode map decides the length, and an instruction read from words is as long as they are. -/
theorem instructionLength : Obligations.InstructionLength := by
  refine ⟨fun w1 => opCell_twoWords _ (opRow_lt _) _ (opCol_lt _), fun w1 => needsSecondWord_eq_none,
    fun w1 w2 i s h => ⟨fun hneeds => ?_, fun hneeds => ?_⟩, fun s w1 h h1 hblank => step_of_blank h h1 hblank⟩
  · rw [nextPc, byteLen_of_decodeWords h hneeds]; rfl
  · rw [nextPc, byteLen_of_decodeWords h hneeds]; rfl

/-! ### Blank OP values -/

/-- The blank cells are the OP values the spec lists, over the whole opcode map (30_encoding.md R97). -/
theorem opCell_blank : ∀ row < 32, ∀ col < 8, (opCell row col = none ↔ isBlankOp (8 * row + col) = true) := by decide

theorem opCell_eq_none_iff (op : BitVec 8) : opCell (opRow op) (opCol op) = none ↔ isBlankOp op.toNat = true := by
  have h := opCell_blank _ (opRow_lt op) _ (opCol_lt op)
  rwa [show 8 * opRow op + opCol op = op.toNat from Nat.div_add_mod _ _] at h

/-- No check of an instruction answers that its OP is undefined. -/
theorem checkWellFormed_ne_undefinedOp (i : Instr) : checkWellFormed i ≠ .error .undefinedOp := by
  unfold checkWellFormed
  split
  · simp
  · split <;> simp

theorem decodeWords_undefinedOp {w1 w2 : Word} :
    decodeWords w1 w2 = .error .undefinedOp ↔ opCell (opRow (opField w1)) (opCol (opField w1)) = none := by
  constructor
  · intro h
    cases hcell : opCell (opRow (opField w1)) (opCol (opField w1)) with
    | none => rfl
    | some f =>
      have hans := decodeCell_answer (rd := rdField w1) (rx := rxField w1) (w2 := w2) hcell
      rw [decodeWords_of_cell hcell] at h
      generalize decodeCell _ _ _ _ _ _ = r at hans h
      cases hans with
      | badCondition => simp [Except.bind] at h
      | badField => simp [Except.bind] at h
      | instr => exact absurd h (checkWellFormed_ne_undefinedOp _)
  · exact fun h => decodeWords_of_blank (needsSecondWord_eq_none.2 h) w2

/-- Settles O13: the blank cells are the spec's list, the decoder answers an undefined OP for no other, and the fetch takes the
trap. -/
theorem blankOpcodesTrap : Obligations.BlankOpcodesTrap :=
  ⟨opCell_eq_none_iff, fun w1 _ => decodeWords_undefinedOp.trans (opCell_eq_none_iff (opField w1)),
    fun _ w1 h h1 hblank => step_of_blank h h1 (needsSecondWord_eq_none.2 ((opCell_eq_none_iff (opField w1)).2 hblank))⟩

/-! ### The bytes of an instruction in memory -/

/-- The bytes from PC on are those of the instruction, and may be fetched. -/
def EncodedAt (s : State) (i : Instr) : Prop :=
  ∀ k : Nat, k < i.byteLen →
    denied s .fetch (s.pc + BitVec.ofNat 16 k) = false ∧
      ∃ b, (encodeBytes i)[k]? = some b ∧ byteAt s .fetch (s.pc + BitVec.ofNat 16 k) = .ok b

section
variable {s : State} {i : Instr}

theorem byteAt_of_encodedAt (h : EncodedAt s i) {k : Nat} {b : Byte} (hb : (encodeBytes i)[k]? = some b) :
    denied s .fetch (s.pc + BitVec.ofNat 16 k) = false ∧ byteAt s .fetch (s.pc + BitVec.ofNat 16 k) = .ok b := by
  obtain ⟨hk, -⟩ := List.getElem?_eq_some_iff.1 hb
  obtain ⟨hd, b', hb', hbyte⟩ := h k (encodeBytes_length i ▸ hk)
  rw [hb] at hb'
  cases hb'
  exact ⟨hd, hbyte⟩

theorem isOdd_add_even {a : Word} (h : isOdd a = false) {k : Nat} (hk : k % 2 = 0) : isOdd (a + BitVec.ofNat 16 k) = false := by
  have heven := toNat_mod_two_of_even h
  rw [isOdd_eq_decide, BitVec.toNat_add, BitVec.toNat_ofNat]
  simp only [decide_eq_false_iff_not]
  omega

theorem readWord_of_encodedAt (h : EncodedAt s i) (hpc : isOdd s.pc = false) {k : Nat} (hk : k % 2 = 0) {w : Word}
    (hhi : (encodeBytes i)[k]? = some (hiByte w)) (hlo : (encodeBytes i)[k + 1]? = some (loByte w)) :
    readWord s .fetch (s.pc + BitVec.ofNat 16 k) = .ok w := by
  obtain ⟨hd, hbyte⟩ := byteAt_of_encodedAt h hhi
  obtain ⟨hd', hbyte'⟩ := byteAt_of_encodedAt h hlo
  rw [BitVec.ofNat_add, ← BitVec.add_assoc] at hd' hbyte'
  simpa using readWord_of_allowed ⟨isOdd_add_even hpc hk, hd, hd'⟩ hbyte hbyte'

/-- The words at PC are those of the encoding, and the decoder reads the instruction from them. -/
theorem holdsInstr_of_encodedAt (hwf : i.wellFormed = true) (hpc : isOdd s.pc = false) (h : EncodedAt s i) :
    HoldsInstr s i := by
  obtain ⟨w1, w2, hw⟩ := exists_decodeWords hwf
  obtain ⟨f, hcell, hwords, -⟩ := decodeWords_eq_ok hw
  have hbytes := encodeBytes_of_words hwords
  refine ⟨w1, w2, ?_, fun hneeds => ?_, hw⟩
  · simpa using readWord_of_encodedAt (k := 0) (w := w1) h hpc rfl (by rw [hbytes]; split <;> rfl)
      (by rw [hbytes]; split <;> rfl)
  · have htwo : f.twoWords = true := by simpa [needsSecondWord_of_cell hcell] using hneeds
    exact readWord_of_encodedAt (k := 2) h hpc rfl (by simp [hbytes, htwo]) (by simp [hbytes, htwo])

end

/-- Settles O11: the words at PC hold the instruction encoded there. -/
theorem stepRunsEncodedInstruction : Obligations.StepRunsEncodedInstruction :=
  fun _ _ h hwf hpc hbytes => step_of_holdsInstr h (holdsInstr_of_encodedAt hwf hpc hbytes)

end Sys2Proof.Machine
end

-- Family 30_encoding.md: the words that are refused (R98, R100).
section
/-! SUPPORT. The words that are refused by name (60_exceptions.md R208 (5)), from what a cell of the opcode map answers. -/

namespace Sys2Proof

/-! ### When a cell answers an instruction, and when it refuses a field -/

section
variable {op : BitVec 8} {row col : Nat} {f : Format} {rd rx : Nibble} {w2 : Word} {i : Instr}

theorem decodeCell_of_zeroFields (hcell : opCell row col = some f) (hcond : ¬ (row = 20 ∧ rd = 13#4))
    (hzero : ZeroFields row f rd rx) (w2 : Word) :
    ∃ i, decodeCell row col f rd rx w2 = .ok i ∧ ReadFrom row col f rd rx w2 i := by
  have hans := decodeCell_answer (rd := rd) (rx := rx) (w2 := w2) hcell
  generalize decodeCell _ _ _ _ _ _ = r at hans ⊢
  cases hans with
  | badCondition hf hrow hrd => exact absurd ⟨hrow, hrd⟩ hcond
  | badField _ hbad => exact absurd hzero hbad
  | instr _ _ hread => exact ⟨_, rfl, hread⟩

theorem decodeCell_of_badField (hcell : opCell row col = some f) (hcond : row = 20 → rd = 13#4 → f = .noOperand)
    (hbad : ¬ ZeroFields row f rd rx) (w2 : Word) : decodeCell row col f rd rx w2 = .error .nonZeroField := by
  have hans := decodeCell_answer (rd := rd) (rx := rx) (w2 := w2) hcell
  generalize decodeCell _ _ _ _ _ _ = r at hans ⊢
  cases hans with
  | badCondition hf hrow hrd => exact absurd (hcond hrow hrd) hf
  | badField => rfl
  | instr _ hzero _ => exact absurd hzero hbad

theorem decodeWords_of_badField (hcell : opCell (opRow op) (opCol op) = some f)
    (hcond : opRow op = 20 → rd = 13#4 → f = .noOperand) (hbad : ¬ ZeroFields (opRow op) f rd rx) (w2 : Word) :
    decodeWords (packWord op rd rx) w2 = .error .nonZeroField := by
  rw [decodeWords_of_cell (f := f) (by simpa using hcell)]
  simp [decodeCell_of_badField hcell hcond hbad, Except.bind]

/-- Jump condition Dh (30_encoding.md R100). -/
theorem decodeWords_of_conditionD (hrow : opRow op = 20) (hcell : opCell (opRow op) (opCol op) = some f)
    (rx : Nibble) (w2 : Word) : decodeWords (packWord op 13#4 rx) w2 = .error .jumpConditionD := by
  have hans := decodeCell_answer (rd := 13#4) (rx := rx) (w2 := w2) hcell
  rw [decodeWords_of_cell (f := f) (by simpa using hcell), opField_packWord, rdField_packWord, rxField_packWord]
  generalize decodeCell _ _ _ _ _ _ = r at hans ⊢
  cases hans with
  | badCondition => rfl
  | badField hcond _ => exact absurd ⟨hrow, rfl⟩ hcond
  | instr hcond _ _ => exact absurd ⟨hrow, rfl⟩ hcond

theorem decodeWords_of_usesPc {w1 : Word} (hcell : opCell (opRow (opField w1)) (opCol (opField w1)) = some f)
    (hi : decodeCell (opRow (opField w1)) (opCol (opField w1)) f (rdField w1) (rxField w1) w2 = .ok i)
    (hpc : i.usesPc = true) : decodeWords w1 w2 = .error .pcOperand := by
  rw [decodeWords_of_cell hcell, hi]
  exact checkWellFormed_of_usesPc hpc

theorem decodeWords_of_badPair {w1 : Word} (hcell : opCell (opRow (opField w1)) (opCol (opField w1)) = some f)
    (hi : decodeCell (opRow (opField w1)) (opCol (opField w1)) f (rdField w1) (rxField w1) w2 = .ok i)
    (hpc : i.usesPc = false) (hpair : i.badPair = true) : decodeWords w1 w2 = .error .badRegisterPair := by
  rw [decodeWords_of_cell hcell, hi]
  exact checkWellFormed_of_badPair hpc hpair

/-- Register number Fh in a register field (10_state.md R27). -/
theorem decodeWords_of_fh (hcell : opCell (opRow op) (opCol op) = some f) (hcond : ¬ (opRow op = 20 ∧ rd = 13#4))
    (hzero : ZeroFields (opRow op) f rd rx)
    (hpc : (f ≠ .noOperand ∧ opRow op ≠ 20 ∧ opRow op ≠ 21 ∧ rd = 15#4) ∨ (rx = 15#4 ∧ f.LowReg)) (w2 : Word) :
    decodeWords (packWord op rd rx) w2 = .error .pcOperand := by
  obtain ⟨i, hi, hread⟩ := decodeCell_of_zeroFields hcell hcond hzero w2
  exact decodeWords_of_usesPc (f := f) (by simpa using hcell) (by simpa using hi) (hread.usesPc_iff.2 hpc)

theorem isPairLow_ofNum (n : Nibble) : (Reg.ofNum n).isPairLow = decide (n.toNat % 2 = 0 ∧ n.toNat ≤ 10) := by
  revert n; decide

/-- MULL and DIVL with a register that heads no pair (42_mul_div.md R144). -/
theorem decodeWords_of_mull_divl (hrow : opRow op = 13 ∨ opRow op = 14) (hcell : opCell (opRow op) (opCol op) = some f)
    (hlow : f = .drct ∨ f = .imm → rx = 0#4) (hrx : f.LowReg → rx ≠ 15#4) (hrd : rd ≠ 15#4)
    (hodd : ¬ (rd.toNat % 2 = 0 ∧ rd.toNat ≤ 10)) (w2 : Word) :
    decodeWords (packWord op rd rx) w2 = .error .badRegisterPair := by
  have hmode : modeFormat (opCol op) = some f := by obtain h | h := hrow <;> rwa [h] at hcell
  obtain ⟨hone, hno⟩ := ne_of_modeFormat hmode
  have hlow' : f.LowZero → rx = 0#4 := by
    rintro (hf | hf | hf)
    · exact hlow (.inl hf)
    · exact hlow (.inr hf)
    · exact absurd hf hone
  have hne : opRow op ≠ 20 ∧ opRow op ≠ 21 := by omega
  obtain ⟨i, hi, hread⟩ := decodeCell_of_zeroFields hcell (fun h => hne.1 h.1)
    ⟨hlow', fun h => absurd h hno, fun h => absurd h hne.2⟩ w2
  refine decodeWords_of_badPair (f := f) (by simpa using hcell) (by simpa using hi) ?_ ?_
  · rw [← Bool.not_eq_true, hread.usesPc_iff]
    rintro (⟨-, -, -, hfh⟩ | ⟨hfh, hreg⟩)
    · exact hrd hfh
    · exact hrx hreg hfh
  · rw [hread.badPair_eq, isPairLow_ofNum]
    simp [hrow, hodd]

end

end Sys2Proof

namespace Sys2Proof.Machine

/-- Words that are refused stop the step with the refusal's name. -/
theorem step_of_refused {s : State} {w1 w2 : Word} {e : WordError} {r : Refusal} (h : AboutToFetch s)
    (h1 : readWord s .fetch s.pc = .ok w1)
    (h2 : needsSecondWord w1 = some true → readWord s .fetch (s.pc + 2#16) = .ok w2) (hw : decodeWords w1 w2 = .error e)
    (he : e ≠ .undefinedOp) (hr : wordErrorRes e = .refused r) : step s = .refused r := by
  have hdef : needsSecondWord w1 ≠ none := fun hnone => he (by simpa [decodeWords_of_blank hnone] using hw.symm)
  have hfetch : fetch s = .error (.refused r) := by simp [fetch_of_words h1 h2 hdef, decodeRes, hw, hr, orStop]
  exact step_of_fetch_error h hfetch

theorem pairHigh_of_not_pair {rd : Reg} (h : ∀ n : Fin 13, n.val % 2 = 0 → n.val ≤ 10 → rd ≠ .g n) :
    pairHigh rd = .refused .badRegisterPair := by
  cases rd with
  | g n => exact dif_neg fun hn => h n hn.1 hn.2 rfl
  | sp => rfl
  | usp => rfl
  | pc => rfl

/-- Settles O14: each refused word is what its cell answers, or fails a check of the instruction the cell answers; the fetch
passes the refusal on. -/
theorem meaninglessWordsRefused : Obligations.MeaninglessWordsRefused := by
  refine ⟨fun s w1 w2 e h h1 h2 hw he => ?_, fun op rd rx w2 hcell hne => ?_, fun op f rd rx w2 hcell hf hrx hcond => ?_,
    fun rd rx w2 op hop hrd => ?_, fun rx w2 op hop => ?_,
    fun w1 w2 f i hcell hi => ⟨decodeWords_of_usesPc hcell hi, decodeWords_of_badPair hcell hi⟩,
    fun op f rx w2 hcell hno h20 h21 hlow => ?_, fun op f rd w2 hcell hreg hcond hcall => ?_,
    fun op f rd rx w2 hrow hcell hlow hrx hrd hpair => ?_, fun rd ea s hrd => ⟨?_, ?_⟩, fun s v => ⟨rfl, rfl⟩⟩
  · cases e with
    | undefinedOp => exact absurd rfl he
    | nonZeroField => exact step_of_refused h h1 h2 hw he rfl
    | jumpConditionD => exact step_of_refused h h1 h2 hw he rfl
    | pcOperand => exact step_of_refused h h1 h2 hw he rfl
    | badRegisterPair => exact step_of_refused h h1 h2 hw he rfl
  · refine decodeWords_of_badField hcell (fun _ _ => rfl) (fun hzero => ?_) w2
    obtain ⟨hrd, hrx⟩ := hzero.fixed rfl
    exact hne.elim (· hrd) (· hrx)
  · exact decodeWords_of_badField hcell (fun h20 hrd => absurd hrd (hcond h20)) (fun hzero => hrx (hzero.low hf)) w2
  · obtain ⟨f, hrow, hcell⟩ : ∃ f, opRow op = 21 ∧ opCell (opRow op) (opCol op) = some f := by
      obtain rfl | rfl | rfl := hop
      · exact ⟨.drct, rfl, rfl⟩
      · exact ⟨.idx, rfl, rfl⟩
      · exact ⟨.indr, rfl, rfl⟩
    exact decodeWords_of_badField hcell (by simp [hrow]) (fun hzero => hrd (hzero.call hrow)) w2
  · obtain rfl | rfl | rfl := hop
    · exact decodeWords_of_conditionD (f := .drct) rfl rfl rx w2
    · exact decodeWords_of_conditionD (f := .idx) rfl rfl rx w2
    · exact decodeWords_of_conditionD (f := .indr) rfl rfl rx w2
  · exact decodeWords_of_fh hcell (fun h => h20 h.1) ⟨hlow, fun h => absurd h hno, fun h => absurd h h21⟩
      (.inl ⟨hno, h20, h21, rfl⟩) w2
  · refine decodeWords_of_fh hcell (fun h => hcond h.1 h.2) ⟨?_, ?_, hcall⟩ (.inr ⟨rfl, hreg⟩) w2
    · exact fun hlow => absurd hreg (not_lowReg_of_lowZero hlow)
    · rintro rfl
      simp at hreg
  · refine decodeWords_of_mull_divl hrow hcell hlow hrx hrd ?_ w2
    obtain hodd | rfl | rfl := hpair
    · omega
    · decide
    · decide
  · change execMull rd ea s = _
    rw [execMull, pairHigh_of_not_pair hrd, Res.bind_refused, performSeq_refused (privAllowed_of_neverPrivileged rfl s)]
  · change execDivl rd ea s = _
    rw [execDivl, pairHigh_of_not_pair hrd, Res.bind_refused, performSeq_refused (privAllowed_of_neverPrivileged rfl s)]

end Sys2Proof.Machine
end

-- Family 30_encoding.md: the operand modes (R85 to R92), and the examples (R102).
section
/-! SUPPORT. The operand modes: the words of each, its effective address and its operand (30_encoding.md R85 to R92). -/

namespace Sys2Proof.Machine

/-! ### Words of the two-operand instructions -/

/-- Which register heads an admitted pair does not depend on the operand (42_mul_div.md R144). -/
theorem wellFormed_twoOperand {row : Nat} {mk : Reg → EA → Instr} (h : twoOperand row = some mk) {rd : Reg} {ea ea' : EA}
    (hwf : (mk rd ea).wellFormed = true) (hea : ea'.usesPc = false) : (mk rd ea').wellFormed = true := by
  obtain ⟨hpc, hpair⟩ := wellFormed_iff.1 hwf
  rw [usesPc_twoOperand h, Bool.or_eq_false_iff] at hpc
  exact wellFormed_iff.2 ⟨by rw [usesPc_twoOperand h, hpc.1, hea]; rfl, by rwa [badPair_twoOperand h] at hpair ⊢⟩

theorem decodeWords_twoOperand {row col : Nat} {mk : Reg → EA → Instr} (h : twoOperand row = some mk) {f : Format}
    (hf : modeFormat col = some f) {rd rx : Nibble} {w2 : Word} {ea : EA} (hea : decodeEA f rx w2 = .ok ea)
    (hwf : (mk (.ofNum rd) ea).wellFormed = true) :
    decodeWords (packWord (opByte row col) rd rx) w2 = .ok (mk (.ofNum rd) ea) := by
  have hcell : opCell row col = some f := by simp [opCell, h, hf]
  obtain ⟨hr, hc⟩ := opCell_lt hcell
  rw [decodeWords_of_cell (f := f) (by simpa [opRow_opByte hr hc, opCol_opByte hc] using hcell)]
  simp [opRow_opByte hr hc, decodeCell, h, hea, Except.map, Except.bind, checkWellFormed_of_wellFormed hwf]

/-! ### Addresses -/

/-- FP Relative: the field counts words, and the sum wraps (30_encoding.md R88). -/
theorem add_sext4_shift (x : Word) (d4 : Nibble) :
    x + (sext4 d4 <<< 1) = BitVec.ofInt 16 (x.toNat + 2 * d4.toInt) := by
  have hfield : sext4 d4 <<< 1 = BitVec.ofInt 16 (2 * d4.toInt) := by revert d4; decide
  rw [hfield, BitVec.ofInt_add, BitVec.ofInt_natCast, BitVec.ofNat_toNat, BitVec.setWidth_eq]

/-- The values of the 4-bit immediate (30_encoding.md R90). -/
theorem sext4_eq (n : Nibble) :
    sext4 n = if n.toNat < 8 then BitVec.ofNat 16 n.toNat else BitVec.ofNat 16 (0xFFF0 + n.toNat) := by
  revert n; decide

theorem add_eq_ofNat (x y : Word) : x + y = BitVec.ofNat 16 (x.toNat + y.toNat) := by
  rw [BitVec.ofNat_add, BitVec.ofNat_toNat, BitVec.ofNat_toNat, BitVec.setWidth_eq, BitVec.setWidth_eq]

theorem effAddr_fp (s : State) (d4 : Nibble) :
    effAddr s (.fp d4) = .ok (BitVec.ofInt 16 (s.gr[12].toNat + 2 * d4.toInt)) :=
  congrArg Res.ok (add_sext4_shift s.gr[12] d4)

theorem isPc_ofNum_eq_false {n : Nibble} (h : n ≠ 15#4) : (Reg.ofNum n).isPc = false := by
  rw [← Bool.not_eq_true, Reg.isPc_ofNum]
  exact h

/-- Settles O5: the words of each mode are those of its format, and its address and operand those of its rule. -/
theorem operandModes : Obligations.OperandModes := by
  intro row mk h rd rx w2 s hwf
  have hwf' {ea : EA} (hea : ea.usesPc = false) := wellFormed_twoOperand h hwf hea
  refine ⟨⟨?_, rfl, rfl⟩, ⟨?_, rfl⟩, ⟨?_, effAddr_fp s rx, operand_word rfl (effAddr_fp s rx)⟩,
    fun hrx => ⟨?_, rfl⟩, ⟨?_, congrArg Res.ok (sext4_eq rx)⟩, fun hrx => ⟨?_, fun a ha => ⟨ha, operand_word rfl ha⟩⟩⟩
  · exact decodeWords_twoOperand (col := 0) h rfl rfl (hwf' rfl)
  · exact decodeWords_twoOperand (col := 2) h rfl rfl (hwf' rfl)
  · exact decodeWords_twoOperand (col := 3) h rfl rfl (hwf' rfl)
  · exact decodeWords_twoOperand (col := 4) h rfl rfl (hwf' (isPc_ofNum_eq_false hrx))
  · exact decodeWords_twoOperand (col := 5) h rfl rfl hwf
  · exact decodeWords_twoOperand (col := 6) h rfl rfl (hwf' (isPc_ofNum_eq_false hrx))

theorem effAddr_setMem (s : State) (m : Memory) (ea : MemEA) : effAddr (s.setMem m) ea = effAddr s ea := by
  have hread (r : Reg) : readReg (s.setMem m) r = readReg s r := by cases r <;> rfl
  cases ea <;> simp only [effAddr, hread]

/-- Settles O6: the addresses are read from registers alone, and the zero-extension keeps the byte's value. -/
theorem indexedByteAndJumpModes : Obligations.IndexedByteAndJumpModes := by
  intro s dsp x rx hx
  have hidx : effAddr s (.idx dsp rx) = .ok (BitVec.ofNat 16 (dsp.toNat + x.toNat)) := by
    rw [effAddr, hx, Res.map_ok, add_eq_ofNat]
  refine ⟨hidx, operand_word rfl hidx, hx, fun b hb => ⟨zext8 b, ?_, ?_⟩, rfl, hidx, hx, fun m ea => effAddr_setMem s m _⟩
  · simp [operand, loadMem, effAddr, hx, MemEA.isByte, hb]
  · have hlt : b.toNat < 256 := b.isLt
    rw [zext8, BitVec.toNat_setWidth]
    omega

/-- Settles O3: each example word is decoded. -/
theorem specExamplesDecode : Obligations.SpecExamplesDecode := by
  unfold Obligations.SpecExamplesDecode
  decide

end Sys2Proof.Machine
end

-- Family 40_no_load_store.md: NO, LD, LD Rd,FLAG and ST (R121 to R124).
section
/-! SUPPORT. What an instruction leaves whose whole effect is one register write or one store, and so NO, LD, LD Rd,FLAG and ST
where the privilege check lets them run (40_no_load_store.md R121 to R124). -/

namespace Sys2Proof.Machine

/-! ### The frame of a register write -/

theorem writeReg_memKept {s t : State} {r : Reg} {v : Word} (h : writeReg s r v = .ok t) : MemKept s t := by
  obtain ⟨-, -, -, -, -, -, hmem, -, htick, -⟩ := writeReg_frame h
  exact byteAt_congr hmem htick

theorem writeReg_restKept {s t : State} {r : Reg} {v : Word} (h : writeReg s r v = .ok t) : RestKept s t := by
  obtain ⟨-, -, hhalted, hirq, hlower, hupper, -, hio, htick, hparams⟩ := writeReg_frame h
  exact ⟨hhalted, hirq, hlower, hupper, hio, htick, hparams⟩

/-- An allowed instruction whose effect is one register write (10_state.md R24). -/
theorem performSeq_writeReg {i : Instr} {s : State} {rd : Reg} (hp : privAllowed i s = true) (hrd : rd ≠ .pc) (v : Word) :
    ∃ t, performSeq i s (writeReg s rd v) = .next t ∧ RegsAfterWrite rd v s t ∧ t.flag = s.flag ∧ t.pc = nextPc i s ∧
      MemKept s t ∧ RestKept s t := by
  obtain ⟨u, hu⟩ := writeReg_isOk s v hrd
  obtain ⟨-, hflag, -⟩ := writeReg_frame hu
  have hregs : RegsAfterWrite rd v s u := writeReg_regsAfterWrite hu
  have hmem : MemKept s u := writeReg_memKept hu
  have hrest : RestKept s u := writeReg_restKept hu
  exact ⟨u.setPc (nextPc i s), by rw [hu, performSeq_ok hp], hregs, hflag, rfl, hmem, hrest⟩

/-! ### The frame of a store -/

theorem regsKept_setMem_setPc (s : State) (m : Memory) (pc : Word) : RegsKept s ((s.setMem m).setPc pc) :=
  ⟨fun _ => rfl, rfl, rfl⟩

theorem restKept_setMem_setPc (s : State) (m : Memory) (pc : Word) : RestKept s ((s.setMem m).setPc pc) :=
  ⟨rfl, rfl, rfl, rfl, rfl, rfl, rfl⟩

theorem memKeptButByte_storeByte (s : State) (a : Word) (v : Byte) : MemKeptButByte a s (s.storeByte a v) :=
  fun k _ hne => byteAt_storeByte_ne s v k hne

theorem writeByte_of_writable {s : State} {k : AccessKind} {a : Word} (h : denied s k a = false)
    (hr : regionOf a.toNat ≠ .rom) (v : Byte) : writeByte s k a v = .ok (s.storeByte a v) := by
  simp [writeByte, h, hr]

/-- Byte Register Indirect has no second word (30_encoding.md R99). -/
theorem byteLen_of_isByte {m : MemEA} (h : MemEA.isByte m = true) : m.byteLen = 2 := by
  cases m with
  | bindr rx => rfl
  | drct dsp | idx dsp rx | fp d4 | indr rx => cases h

theorem exec_st_of_storeMem {s t : State} {rd : Reg} {m : MemEA} {v : Word} (hp : privAllowed (.st rd m) s = true)
    (hv : readReg s rd = .ok v) (ht : storeMem s m v = .ok t) :
    exec (.st rd m) s = .next (t.setPc (nextPc (.st rd m) s)) := by
  rw [exec_st_of_readReg hv, ht, performSeq_ok hp]

/-! ### The instructions -/

/-- LD is a register write, once its operand is read (40_no_load_store.md R122). -/
theorem exec_ld_of_operand {s : State} {ea : EA} {b : Word} (hb : operand s ea = .ok b) (rd : Reg) :
    exec (.ld rd ea) s = performSeq (.ld rd ea) s (writeReg s rd b) := by
  change execLd rd ea s = _
  rw [execLd, hb, Res.bind_ok]

/-- Settles O22: the effect of NO is the state as it stands. -/
theorem noOnlyAdvances : Obligations.NoOnlyAdvances :=
  fun _ hp => performSeq_ok hp

/-- Settles O23: LD is one register write, of its operand. -/
theorem ldEffect : Obligations.LdEffect := by
  intro rd ea s b hp hrd hb
  rw [exec_ld_of_operand hb]
  exact performSeq_writeReg hp hrd b

/-- Settles O24: LD Rd,FLAG is one register write, of the FLAG word. -/
theorem ldFlagEffect : Obligations.LdFlagEffect :=
  fun _ s hp hrd => performSeq_writeReg hp hrd s.flag.toWord

/-- Settles O25: ST is one store of the mode's width, at the effective address. -/
theorem stEffect : Obligations.StEffect := by
  intro rd m s v a hp hv ha
  refine ⟨fun hb hw => ?word, fun hb hd hr => ?byte⟩
  case word =>
    have hstore : storeMem s m v = .ok (s.storeWord a v) := by rw [storeMem_word hb ha, writeWord_of_writable hw]
    exact ⟨_, exec_st_of_storeMem hp hv hstore, wordStored_storeWord s a v, memKeptButWord_storeWord s a v,
      regsKept_setMem_setPc s _ _, rfl, rfl, restKept_setMem_setPc s _ _⟩
  case byte =>
    have hstore : storeMem s m v = .ok (s.storeByte a (loByte v)) := by
      rw [storeMem_byte hb ha, writeByte_of_writable hd hr]
    have hpc : nextPc (.st rd m) s = s.pc + 2#16 := by rw [nextPc, Instr.byteLen, byteLen_of_isByte hb]
    exact ⟨_, exec_st_of_storeMem hp hv hstore, fun hattr k => byteAt_storeByte_self s a _ k hattr,
      memKeptButByte_storeByte s a _, regsKept_setMem_setPc s _ _, rfl, hpc, restKept_setMem_setPc s _ _⟩

end Sys2Proof.Machine
end

-- Family 41_arith_logic.md: ADD, SUB, CMP, AND, OR, XOR, ADDS (R130 to R138), and MUL (42_mul_div.md R141).
section
/-! SUPPORT. The flags of the sum and of the difference as statements about the operands' values, and what an instruction
leaves whose whole effect is one 16-bit result and the condition flags (41_arith_logic.md R130 to R138). -/

namespace Sys2Proof.Machine

/-! ### Results and flags -/

theorem ne_pc_of_readReg {s : State} {r : Reg} {v : Word} (h : readReg s r = .ok v) : r ≠ .pc := by
  rintro rfl
  cases h

theorem zeroFlag_eq_decide (r : Word) : zeroFlag r = decide (r = 0#16) := Bool.beq_eq_decide_eq r 0#16

theorem signBit_eq_getLsbD (r : Word) : signBit r = r.getLsbD 15 := BitVec.msb_eq_getLsbD_last r

/-- V of ADD by the signs is the sum leaving the signed range (41_arith_logic.md R132). -/
theorem addOverflow_add (a b : Word) :
    addOverflow a b (a + b) = decide (a.toInt + b.toInt < -32768 ∨ 32767 < a.toInt + b.toInt) := by
  have hsigns : addOverflow a b (a + b) = BitVec.saddOverflow a b := (BitVec.saddOverflow_eq a b).symm
  rw [hsigns, BitVec.saddOverflow, ← Bool.decide_or, decide_eq_decide]
  omega

/-- V of SUB by the signs is the difference leaving the signed range (10_state.md R33). -/
theorem subOverflow_sub (a b : Word) :
    subOverflow a b (a - b) = decide (a.toInt - b.toInt < -32768 ∨ 32767 < a.toInt - b.toInt) := by
  have hsigns : subOverflow a b (a - b) = BitVec.ssubOverflow a b := by
    rw [BitVec.ssubOverflow_eq]
    simp only [subOverflow, signBit]
    cases a.msb <;> cases b.msb <;> simp
  rw [hsigns, BitVec.ssubOverflow, ← Bool.decide_or, decide_eq_decide]
  omega

theorem sub_eq_ofInt (a b : Word) : a - b = BitVec.ofInt 16 ((a.toNat : Int) - b.toNat) := by
  apply BitVec.eq_of_toNat_eq
  rw [BitVec.toNat_sub, BitVec.toNat_ofInt]
  omega

theorem mul_eq_ofNat (a b : Word) : a * b = BitVec.ofNat 16 (a.toNat * b.toNat) :=
  BitVec.eq_of_toNat_eq (by rw [BitVec.toNat_mul, BitVec.toNat_ofNat])

/-- The sum of ADDS: the operand doubled (41_arith_logic.md R138). -/
theorem add_double_eq_ofNat (a b : Word) : a + 2#16 * b = BitVec.ofNat 16 (a.toNat + 2 * b.toNat) := by
  bv_omega

/-! ### One 16-bit result -/

/-- The instruction completes with the result `r` in `rd`, as `SingleResult` says, and with these values in C and V. -/
def FlaggedResult (i : Instr) (rd : Reg) (r : Word) (c v : Bool) (s : State) : Prop :=
  ∃ t, exec i s = .next t ∧ RegsAfterWrite rd r s t ∧ ResultFlags r s t ∧ t.flag.c = c ∧ t.flag.v = v ∧
    t.pc = nextPc i s ∧ MemKept s t ∧ RestKept s t

theorem FlaggedResult.singleResult {i : Instr} {rd : Reg} {r : Word} {c v : Bool} {s : State}
    (h : FlaggedResult i rd r c v s) : SingleResult i rd r s := by
  obtain ⟨t, hexec, hregs, hflags, -, -, hrest⟩ := h
  exact ⟨t, hexec, hregs, hflags, hrest⟩

section
variable {i : Instr} {rd : Reg} {s : State} {c v : Bool} (hi : neverPrivileged (instrName i) = true)
include hi

/-- An instruction whose effect is to write a result with its Z and S (41_arith_logic.md R130, R131). -/
theorem flaggedResult_of_writeResult {r : Word} (hrd : rd ≠ .pc)
    (hexec : exec i s = performSeq i s (writeResult s rd r (s.flag.setCond v c (signBit r) (zeroFlag r)))) :
    FlaggedResult i rd r c v s := by
  obtain ⟨u, hu⟩ := writeReg_isOk s r hrd
  have hregs : RegsAfterWrite rd r s u := writeReg_regsAfterWrite hu
  have hmem : MemKept s u := writeReg_memKept hu
  have hrest : RestKept s u := writeReg_restKept hu
  rw [writeResult, hu, Res.map_ok, performSeq_ok (privAllowed_of_neverPrivileged hi s)] at hexec
  exact ⟨_, hexec, hregs, ⟨zeroFlag_eq_decide r, signBit_eq_getLsbD r, rfl, rfl, rfl⟩, rfl, rfl, rfl, hmem, hrest⟩

/-- A two-operand instruction whose operands can be read, and whose flags `fl` hold Z and S of the result `f a b`. -/
theorem flaggedResult_of_aluEffect {ea : EA} {a b : Word} {f : Word → Word → Word} {fl : Word → Word → Word → Flags}
    (ha : readReg s rd = .ok a) (hb : operand s ea = .ok b)
    (hfl : fl a b (f a b) = s.flag.setCond v c (signBit (f a b)) (zeroFlag (f a b)))
    (hexec : exec i s = performSeq i s (aluEffect rd ea s f fl)) : FlaggedResult i rd (f a b) c v s := by
  rw [aluEffect, ha, Res.bind_ok, hb, Res.bind_ok, hfl] at hexec
  exact flaggedResult_of_writeResult hi (ne_pc_of_readReg ha) hexec

end

/-! ### The instructions -/

section
variable {rd : Reg} {ea : EA} {s : State} {a b : Word} (ha : readReg s rd = .ok a) (hb : operand s ea = .ok b)
include ha hb

theorem flaggedResult_add : FlaggedResult (.add rd ea) rd (a + b) (addCarry a b) (addOverflow a b (a + b)) s :=
  flaggedResult_of_aluEffect rfl ha hb rfl rfl

theorem flaggedResult_sub : FlaggedResult (.sub rd ea) rd (a - b) (subBorrow a b) (subOverflow a b (a - b)) s :=
  flaggedResult_of_aluEffect rfl ha hb rfl rfl

/-- Any instruction that draws C and V (41_arith_logic.md R130 (d)). -/
theorem singleResult_of_resultFlags {i : Instr} (hi : neverPrivileged (instrName i) = true) {f : Word → Word → Word}
    (hexec : exec i s = performSeq i s (aluEffect rd ea s f fun _ _ r => resultFlags s.tick s.flag r)) :
    SingleResult i rd (f a b) s :=
  (flaggedResult_of_aluEffect hi ha hb rfl hexec).singleResult

end

/-- Settles O26: the sum, and V by the signs as the signed overflow. -/
theorem addEffect : Obligations.AddEffect := by
  intro rd ea s a b ha hb
  have h := flaggedResult_add ha hb
  rwa [addOverflow_add, add_eq_ofNat] at h

/-- Settles O27: the difference, and V by the signs as the signed overflow. -/
theorem subEffect : Obligations.SubEffect := by
  intro rd ea s a b ha hb
  have h := flaggedResult_sub ha hb
  rwa [subOverflow_sub, sub_eq_ofInt] at h

/-- Settles O28: CMP sets FLAG to that of the difference and advances PC. -/
theorem cmpEffect : Obligations.CmpEffect := by
  intro rd ea s a b ha hb
  refine ⟨_, exec_cmp ha hb, ⟨fun _ => rfl, rfl, rfl⟩, zeroFlag_sub a b, ?sign, rfl, subOverflow_sub a b,
    ⟨rfl, rfl, rfl⟩, rfl, fun _ _ => rfl, rfl, rfl, rfl, rfl, rfl, rfl, rfl⟩
  case sign =>
    rw [← sub_eq_ofInt]
    exact signBit_eq_getLsbD (a - b)

/-- Settles O30: each of the five is one result whose C and V are drawn. -/
theorem logicAndMulEffect : Obligations.LogicAndMulEffect := by
  intro rd ea s a b ha hb
  rw [← add_double_eq_ofNat, ← mul_eq_ofNat]
  exact ⟨singleResult_of_resultFlags ha hb rfl rfl, singleResult_of_resultFlags ha hb rfl rfl,
    singleResult_of_resultFlags ha hb rfl rfl, singleResult_of_resultFlags (f := fun a b => a + 2#16 * b) ha hb rfl rfl,
    singleResult_of_resultFlags ha hb rfl rfl⟩

end Sys2Proof.Machine
end

-- Family 42_mul_div.md: DIV, MOD, MULL and DIVL (R142 to R146).
section
/-! SUPPORT. The results of DIV, MOD, MULL and DIVL on their fixed domains as statements about the operands' values, and what an
instruction leaves whose whole effect is to write a register pair and draw the condition flags (42_mul_div.md R142 to R146). -/

namespace Sys2Proof.Machine

/-! ### The fixed domains -/

theorem signBit_of_lt {w : Word} (h : w.toNat < 0x8000) : signBit w = false :=
  BitVec.msb_eq_false_iff_two_mul_lt.2 (by omega)

theorem bothNonNegative_of_lt {a b : Word} (ha : a.toNat < 0x8000) (hb : b.toNat < 0x8000) :
    bothNonNegative a b = true := by
  simp [bothNonNegative, signBit_of_lt ha, signBit_of_lt hb]

theorem divlFixed_of_lt {d : BitVec 32} {b : Word} (hd : d.toNat < 0x80000000) (hb : b.toNat < 0x8000)
    (hq : d.toNat / b.toNat ≤ 0x7FFF) : divlFixed d b = true := by
  have hmsb : d.msb = false := BitVec.msb_eq_false_iff_two_mul_lt.2 (by omega)
  simp [divlFixed, hmsb, signBit_of_lt hb, hq]

section
variable {a b : Word} (ha : a.toNat < 0x8000) (hb : b.toNat < 0x8000)
include ha hb

theorem divFn_toNat : (divFn a b).toNat = a.toNat / b.toNat := by
  have hle : a.toNat / b.toNat ≤ a.toNat := Nat.div_le_self _ _
  rw [divFn, if_pos (bothNonNegative_of_lt ha hb), BitVec.toNat_ofNat, Nat.mod_eq_of_lt (by omega)]

theorem modFn_toNat : (modFn a b).toNat = a.toNat % b.toNat := by
  have hle : a.toNat % b.toNat ≤ a.toNat := Nat.mod_le _ _
  rw [modFn, if_pos (bothNonNegative_of_lt ha hb), BitVec.toNat_ofNat, Nat.mod_eq_of_lt (by omega)]

/-- The product of two words below 8000h fits in 31 bits: the pair MULL leaves has D[31] = 0 (42_mul_div.md R145, R146). -/
theorem product_lt : a.toNat * b.toNat < 0x80000000 := by
  have hmul : a.toNat * b.toNat < 0x8000 * 0x8000 := Nat.mul_lt_mul'' ha hb
  omega

theorem mullHiFn_toNat : (mullHiFn a b).toNat = a.toNat * b.toNat / 65536 := by
  have hlt : a.toNat * b.toNat < 0x80000000 := product_lt ha hb
  rw [mullHiFn, if_pos (bothNonNegative_of_lt ha hb), BitVec.toNat_ofNat, Nat.mod_eq_of_lt (by omega)]

/-- The pair that MULL writes, read as one 32-bit value with Rd+1 high, is the product (42_mul_div.md R144, R145). -/
theorem product_pair_toNat : (mullHiFn a b ++ a * b).toNat = a.toNat * b.toNat := by
  rw [BitVec.toNat_append, ← Nat.shiftLeft_add_eq_or_of_lt (a * b).isLt, Nat.shiftLeft_eq, mullHiFn_toNat ha hb,
    BitVec.toNat_mul]
  exact Nat.div_add_mod' _ _

end

section
variable {d : BitVec 32} {b : Word} (hd : d.toNat < 0x80000000) (hb : b.toNat < 0x8000) (hb0 : b ≠ 0#16)
  (hq : d.toNat / b.toNat ≤ 0x7FFF)
include hd hb hq

theorem divlQuot_toNat : (divlQuot d b).toNat = d.toNat / b.toNat := by
  rw [divlQuot, if_pos (divlFixed_of_lt hd hb hq), BitVec.toNat_ofNat, Nat.mod_eq_of_lt (by omega)]

include hb0 in
theorem divlRem_toNat : (divlRem d b).toNat = d.toNat % b.toNat := by
  have hpos : 0 < b.toNat := BitVec.toNat_pos_of_ne_zero hb0
  have hlt : d.toNat % b.toNat < b.toNat := Nat.mod_lt _ hpos
  rw [divlRem, if_pos (divlFixed_of_lt hd hb hq), BitVec.toNat_ofNat, Nat.mod_eq_of_lt (by omega)]

end

/-- On the pair that MULL leaves, the quotient is the first operand and the remainder is zero (42_mul_div.md R146). -/
theorem divl_product_pair {a b : Word} (ha : a.toNat < 0x8000) (hb : b.toNat < 0x8000) (hb0 : b ≠ 0#16) :
    divlQuot (mullHiFn a b ++ a * b) b = a ∧ divlRem (mullHiFn a b ++ a * b) b = 0#16 := by
  have hprod : (mullHiFn a b ++ a * b).toNat = a.toNat * b.toNat := product_pair_toNat ha hb
  have hdiv : a.toNat * b.toNat / b.toNat = a.toNat := Nat.mul_div_cancel _ (BitVec.toNat_pos_of_ne_zero hb0)
  have hd : (mullHiFn a b ++ a * b).toNat < 0x80000000 := hprod ▸ product_lt ha hb
  have hq : (mullHiFn a b ++ a * b).toNat / b.toNat ≤ 0x7FFF := by rw [hprod, hdiv]; omega
  refine ⟨BitVec.eq_of_toNat_eq ?_, BitVec.eq_of_toNat_eq ?_⟩
  · rw [divlQuot_toNat hd hb hq, hprod, hdiv]
  · rw [divlRem_toNat hd hb hb0 hq, hprod, Nat.mul_mod_left, BitVec.toNat_ofNat, Nat.zero_mod]

/-! ### DIV and MOD -/

/-- An instruction that divides by an operand that is not zero (42_mul_div.md R142, R143). -/
theorem singleResult_of_divEffect {i : Instr} {rd : Reg} {ea : EA} {s : State} {a b : Word} {f : Word → Word → Word}
    (hi : neverPrivileged (instrName i) = true) (ha : readReg s rd = .ok a) (hb : operand s ea = .ok b) (hb0 : b ≠ 0#16)
    (hexec : exec i s = performSeq i s (divEffect rd ea s f)) : SingleResult i rd (f a b) s := by
  rw [divEffect, ha, Res.bind_ok, hb, Res.bind_ok, if_neg hb0] at hexec
  exact (flaggedResult_of_writeResult hi (ne_pc_of_readReg ha) hexec).singleResult

/-! ### The register pair -/

/-- The pairs that MULL and DIVL admit (42_mul_div.md R144). -/
theorem pairHigh_eq_ok {lo hi : Fin 13} :
    pairHigh (.g lo) = .ok (.g hi) ↔ (lo.val % 2 = 0 ∧ lo.val ≤ 10) ∧ hi.val = lo.val + 1 := by
  by_cases h : lo.val % 2 = 0 ∧ lo.val ≤ 10
  · simp [pairHigh, h, Fin.ext_iff, eq_comm]
  · simp [pairHigh, h]

theorem ne_of_pairHigh {lo hi : Fin 13} (h : pairHigh (.g lo) = .ok (.g hi)) : lo ≠ hi := by
  obtain ⟨-, hnext⟩ := pairHigh_eq_ok.1 h
  rintro rfl
  omega

/-- The second write to a pair leaves nothing of the first. -/
theorem PairAfterWrite.trans {lo hi : Fin 13} {l h l' h' : Word} {s t u : State} (hst : PairAfterWrite lo hi l h s t)
    (htu : PairAfterWrite lo hi l' h' t u) : PairAfterWrite lo hi l' h' s u := by
  obtain ⟨-, -, hframe, hssp, husp⟩ := hst
  obtain ⟨hlow, hhigh, hframe', hssp', husp'⟩ := htu
  exact ⟨hlow, hhigh, fun n hlo hhi => (hframe' n hlo hhi).trans (hframe n hlo hhi), hssp'.trans hssp, husp'.trans husp⟩

theorem pairAfterWrite_setGr {lo hi : Fin 13} (hne : lo ≠ hi) (s : State) (low high : Word) :
    PairAfterWrite lo hi low high s ((s.setGr lo low).setGr hi high) := by
  refine ⟨?_, ?_, fun n hlo hhi => ?_, rfl, rfl⟩
  · rw [State.setGr_getElem, if_neg hne, State.setGr_getElem, if_pos rfl]
  · rw [State.setGr_getElem, if_pos rfl]
  · rw [State.setGr_getElem, if_neg hhi, State.setGr_getElem, if_neg hlo]

/-- The instruction completes with `low` and `high` in the pair of G`lo` and G`hi`; the four condition flags are not spoken of
(41_arith_logic.md R130 (d)), and everything else but PC is as before. -/
def PairResult (i : Instr) (lo hi : Fin 13) (low high : Word) (s : State) : Prop :=
  ∃ t, exec i s = .next t ∧ PairAfterWrite lo hi low high s t ∧ SystemFlagsKept s t ∧ t.pc = nextPc i s ∧ MemKept s t ∧
    RestKept s t

/-- An instruction whose effect is to write an admitted pair (42_mul_div.md R144). -/
theorem pairResult_of_writePair {i : Instr} {lo hi : Fin 13} {low high : Word} {s : State}
    (hnp : neverPrivileged (instrName i) = true) (hpair : pairHigh (.g lo) = .ok (.g hi))
    (hexec : exec i s = performSeq i s (writePair s (.g lo) (.g hi) low high)) : PairResult i lo hi low high s := by
  have hwrite : writePair s (.g lo) (.g hi) low high =
      .ok (((s.setGr lo low).setGr hi high).setFlag (drawnFlags s.tick s.flag)) := rfl
  rw [hwrite, performSeq_ok (privAllowed_of_neverPrivileged hnp s)] at hexec
  exact ⟨_, hexec, pairAfterWrite_setGr (ne_of_pairHigh hpair) s low high, ⟨rfl, rfl, rfl⟩, rfl, fun _ _ => rfl,
    rfl, rfl, rfl, rfl, rfl, rfl, rfl⟩

/-! ### MULL and DIVL -/

section
variable {lo hi : Fin 13} {ea : EA} {s : State} {b : Word} (hpair : pairHigh (.g lo) = .ok (.g hi))
  (hb : operand s ea = .ok b)
include hpair hb

theorem pairResult_mull : PairResult (.mull (.g lo) ea) lo hi (s.gr[lo] * b) (mullHiFn s.gr[lo] b) s := by
  refine pairResult_of_writePair rfl hpair ?_
  have hlow : readReg s (.g lo) = .ok s.gr[lo] := rfl
  change execMull (.g lo) ea s = _
  rw [execMull, hpair, Res.bind_ok, hlow, Res.bind_ok, hb, Res.bind_ok]

theorem pairResult_divl (hb0 : b ≠ 0#16) :
    PairResult (.divl (.g lo) ea) lo hi (divlQuot (s.gr[hi] ++ s.gr[lo]) b) (divlRem (s.gr[hi] ++ s.gr[lo]) b) s := by
  refine pairResult_of_writePair rfl hpair ?_
  have hlow : readReg s (.g lo) = .ok s.gr[lo] := rfl
  have hhigh : readReg s (.g hi) = .ok s.gr[hi] := rfl
  change execDivl (.g lo) ea s = _
  rw [execDivl, hpair, Res.bind_ok, hhigh, Res.bind_ok, hlow, Res.bind_ok, hb, Res.bind_ok, if_neg hb0]

end

/-- Settles O31: the two functions are DIV_FN and MOD_FN. -/
theorem divModEffect : Obligations.DivModEffect :=
  ⟨divFn, modFn, fun _ _ ha hb _ => ⟨divFn_toNat ha hb, modFn_toNat ha hb⟩, fun _ _ _ _ _ ha hb hb0 =>
    ⟨singleResult_of_divEffect rfl ha hb hb0 rfl, singleResult_of_divEffect rfl ha hb hb0 rfl⟩⟩

/-- Settles O32: the function of the high word is MULL_HI_FN. -/
theorem mullEffect : Obligations.MullEffect := by
  refine ⟨mullHiFn, fun _ _ ha hb => mullHiFn_toNat ha hb, fun lo hi ea s b heven hle hnext hb => ?_⟩
  rw [← mul_eq_ofNat]
  exact pairResult_mull (pairHigh_eq_ok.2 ⟨⟨heven, hle⟩, hnext⟩) hb

/-- Settles O33: the two functions are the quotient and the remainder of DIVL_FN. -/
theorem divlEffect : Obligations.DivlEffect :=
  ⟨divlQuot, divlRem, fun _ _ hd hb hb0 hq => ⟨divlQuot_toNat hd hb hq, divlRem_toNat hd hb hb0 hq⟩,
    fun _ _ _ _ _ heven hle hnext hb hb0 => pairResult_divl (pairHigh_eq_ok.2 ⟨⟨heven, hle⟩, hnext⟩) hb hb0⟩

/-- Settles O34: DIVL divides the pair that MULL has left, which is the product. -/
theorem divlUndoesMull : Obligations.DivlUndoesMull := by
  intro lo hi ea ea' s t b heven hle hnext ha hlt hb0 hb hmull hb'
  have hpair : pairHigh (.g lo) = .ok (.g hi) := pairHigh_eq_ok.2 ⟨⟨heven, hle⟩, hnext⟩
  obtain ⟨t', hexec, hwrite, -⟩ := pairResult_mull hpair hb
  obtain rfl : t = t' := Host.Outcome.next.inj (hmull.symm.trans hexec)
  obtain ⟨u, hdivl, hwrite', -⟩ := pairResult_divl hpair hb' hb0
  have ⟨hlow, hhigh, _⟩ := hwrite
  obtain ⟨hquot, hrem⟩ := divl_product_pair ha hlt hb0
  rw [hlow, hhigh, hquot, hrem] at hwrite'
  exact ⟨u, hdivl, hwrite.trans hwrite'⟩

end Sys2Proof.Machine
end

-- Family 43_shift.md: SHLA, SHLL, SHRA and SHRL (R150 to R155).
section
/-! SUPPORT. The result of a shift by 0 to 15 bits as a statement about the operands' values (43_shift.md R150 to R155). -/

namespace Sys2Proof.Machine

/-! ### The fixed counts -/

section
variable (a : Word) {b : Word} (hb : b.toNat ≤ 15)
include hb

/-- What a left shift moves past bit 15 is lost: the product modulo 65536 (43_shift.md R152, R153). -/
theorem shiftResult_left_eq_ofNat : shiftResult .left a b = BitVec.ofNat 16 (a.toNat * 2 ^ b.toNat) := by
  rw [shiftResult, if_pos (Nat.lt_succ_of_le hb)]
  exact BitVec.eq_of_toNat_eq (by rw [BitVec.toNat_shiftLeft, Nat.shiftLeft_eq, BitVec.toNat_ofNat])

/-- Copies of bit 15 come in, so a negative value rounds toward minus infinity (43_shift.md R154). -/
theorem shiftResult_rightArith_toInt : (shiftResult .rightArith a b).toInt = a.toInt / (2 ^ b.toNat : Nat) := by
  rw [shiftResult, if_pos (Nat.lt_succ_of_le hb)]
  exact BitVec.toInt_sshiftRight.trans (Int.shiftRight_eq_div_pow _ _)

/-- Zeros come in (43_shift.md R155). -/
theorem shiftResult_rightLogical_toNat : (shiftResult .rightLogical a b).toNat = a.toNat / 2 ^ b.toNat := by
  rw [shiftResult, if_pos (Nat.lt_succ_of_le hb)]
  exact (BitVec.toNat_ushiftRight _ _).trans (Nat.shiftRight_eq_div_pow _ _)

end

/-- Settles O35: the three functions are those of `shiftResult`, one for SHLA and SHLL, and each shift draws C and V. -/
theorem shiftEffect : Obligations.ShiftEffect :=
  ⟨shiftResult .left, shiftResult .rightArith, shiftResult .rightLogical,
    fun a _ hb => ⟨shiftResult_left_eq_ofNat a hb, shiftResult_rightArith_toInt a hb, shiftResult_rightLogical_toNat a hb⟩,
    fun _ _ _ _ _ ha hb => ⟨singleResult_of_resultFlags ha hb rfl rfl, singleResult_of_resultFlags ha hb rfl rfl,
      singleResult_of_resultFlags ha hb rfl rfl, singleResult_of_resultFlags ha hb rfl rfl⟩⟩

end Sys2Proof.Machine
end

-- Family 44_jump_call.md: the conditional jumps and JMP (R161 to R175), and CALL (R176).
section
/-! SUPPORT. The words of the jumps, their conditions as statements about V, C, S and Z, and what a push leaves, from which CALL
follows (44_jump_call.md R160 to R176). -/

namespace Sys2Proof

/-! ### The words of a jump -/

section
variable {cond : Nibble} {mk : JumpEA → Instr} (hj : jumpOf cond = some mk)
include hj

theorem wellFormed_jumpOf {ea : JumpEA} (hpc : ea.usesPc = false) : (mk ea).wellFormed = true :=
  Machine.wellFormed_iff.2 ⟨by rw [usesPc_jumpOf hj, hpc], badPair_jumpOf hj ea⟩

/-- A cell of row 20 whose mode has the operand `ea` holds the jump of the condition digit to it (30_encoding.md R100). -/
theorem decodeWords_jump {col : Nat} {f : Format} {rx : Nibble} {w2 : Word} {ea : JumpEA} (hcell : opCell 20 col = some f)
    (hea : (decodeEA f rx w2).bind EA.asJump = .ok ea) (hpc : ea.usesPc = false) :
    decodeWords (packWord (opByte 20 col) cond rx) w2 = .ok (mk ea) := by
  obtain ⟨hrow, hcol⟩ := opCell_lt hcell
  have hdecode : decodeCell 20 col f cond rx w2 = .ok (mk ea) := by simp [decodeCell, twoOperand, hj, hea, Except.map]
  simp only [decodeWords_packWord hrow hcol, hcell, hdecode]
  exact checkWellFormed_of_wellFormed (wellFormed_jumpOf hj hpc)

/-- OP A0h, A1h and A6h are the three modes of a jump, each where its register field is not Fh (30_encoding.md R86, R91). -/
theorem decodeWords_jumpModes (d : Word) {rx : Nibble} (hrx : rx ≠ 15#4) :
    decodeWords (packWord 0xA0#8 cond 0#4) d = .ok (mk (.drct d)) ∧
      decodeWords (packWord 0xA1#8 cond rx) d = .ok (mk (.idx d (.ofNum rx))) ∧
      decodeWords (packWord 0xA6#8 cond rx) d = .ok (mk (.indr (.ofNum rx))) := by
  have hreg : (Reg.ofNum rx).isPc = false := Machine.isPc_ofNum_eq_false hrx
  exact ⟨decodeWords_jump (col := 0) hj rfl rfl rfl, decodeWords_jump (col := 1) hj rfl rfl hreg,
    decodeWords_jump (col := 6) hj rfl rfl hreg⟩

end

/-- The condition digits 0h to 7h, in the order of R161 to R168. -/
theorem jumpOf_low (c : Fin 8) : jumpOf (BitVec.ofNat 4 c.val) =
    [Instr.jz, Instr.jc, Instr.jm, Instr.jo, Instr.jgt, Instr.jge, Instr.jle, Instr.jlt][c.val]? :=
  match c with
  | 0 | 1 | 2 | 3 | 4 | 5 | 6 | 7 => rfl

/-- The condition digits 8h to Fh, in the order of R169 to R175; Dh is no jump. -/
theorem jumpOf_high {c : Fin 16} {mk : JumpEA → Instr}
    (h : [none, none, none, none, none, none, none, none, some Instr.jnz, some Instr.jnc, some Instr.jnm, some Instr.jno,
      some Instr.jhi, none, some Instr.jls, some Instr.jmp][c.val]? = some (some mk)) :
    jumpOf (BitVec.ofNat 4 c.val) = some mk :=
  match c, h with
  | 8, h | 9, h | 10, h | 11, h | 12, h | 14, h | 15, h => Option.some.inj h

end Sys2Proof

namespace Sys2Proof.Machine

/-! ### The conditions -/

section
variable (f : Flags)

/-- S xor V, the signed order after CMP, is that the two bits differ (44_jump_call.md R168). -/
theorem condJlt_eq_decide : condJlt f = decide (f.s ≠ f.v) := by
  rw [Bool.eq_iff_iff]
  simp [condJlt]

theorem condJge_eq_decide : condJge f = decide (¬ (f.s ≠ f.v)) := by
  have h : condJge f = !condJlt f := rfl
  rw [h, condJlt_eq_decide, ← decide_not]

theorem condJle_eq_decide : condJle f = decide (f.z = true ∨ f.s ≠ f.v) := by
  have h : condJle f = (f.z || condJlt f) := rfl
  rw [h, condJlt_eq_decide, Bool.decide_or, Bool.decide_eq_true]

theorem condJgt_eq_decide : condJgt f = decide (¬ (f.z = true ∨ f.s ≠ f.v)) := by
  have h : condJgt f = !condJle f := rfl
  rw [h, condJle_eq_decide, ← decide_not]

theorem condJls_eq_decide : condJls f = decide (f.z = true ∨ f.c = true) := by
  rw [condJls, Bool.decide_or, Bool.decide_eq_true, Bool.decide_eq_true]

theorem condJhi_eq_decide : condJhi f = decide (¬ (f.z = true ∨ f.c = true)) := by
  have h : condJhi f = !condJls f := rfl
  rw [h, condJls_eq_decide, ← decide_not]

end

/-! ### The jumps -/

/-- Settles O36: digits 0h to 7h select the eight jumps, and each condition is its statement about V, C, S and Z. -/
theorem conditionalJumpsLow : Obligations.ConditionalJumpsLow := by
  refine ⟨fun c mk h d rx hrx => decodeWords_jumpModes ((jumpOf_low c).trans h) d hrx, fun s ea hpc => ?_⟩
  obtain ⟨target, ht⟩ := jumpTarget_isOk s hpc
  exact ⟨target, ht, perform_jumpEffect rfl ht Bool.decide_eq_true.symm, perform_jumpEffect rfl ht Bool.decide_eq_true.symm,
    perform_jumpEffect rfl ht Bool.decide_eq_true.symm, perform_jumpEffect rfl ht Bool.decide_eq_true.symm,
    perform_jumpEffect rfl ht (condJgt_eq_decide s.flag), perform_jumpEffect rfl ht (condJge_eq_decide s.flag),
    perform_jumpEffect rfl ht (condJle_eq_decide s.flag), perform_jumpEffect rfl ht (condJlt_eq_decide s.flag)⟩

/-- Settles O37: digits 8h to Fh but Dh select the seven jumps; the condition of JMP is true. -/
theorem conditionalJumpsHigh : Obligations.ConditionalJumpsHigh := by
  refine ⟨fun c mk h d rx hrx => decodeWords_jumpModes (jumpOf_high h) d hrx, fun s ea hpc => ?_⟩
  obtain ⟨target, ht⟩ := jumpTarget_isOk s hpc
  have hjmp : GoesTo (.jmp ea) s (if True then target else nextPc (.jmp ea) s) := perform_jumpEffect rfl ht rfl
  exact ⟨target, ht, perform_jumpEffect rfl ht Bool.decide_eq_false.symm, perform_jumpEffect rfl ht Bool.decide_eq_false.symm,
    perform_jumpEffect rfl ht Bool.decide_eq_false.symm, perform_jumpEffect rfl ht Bool.decide_eq_false.symm,
    perform_jumpEffect rfl ht (condJhi_eq_decide s.flag), perform_jumpEffect rfl ht (condJls_eq_decide s.flag), hjmp⟩

/-! ### A push, and CALL -/

theorem push_of_writable {s : State} (h : WordWritable s .stack (s.sp - 2#16)) (v : Word) :
    push s v = .ok ((s.storeWord (s.sp - 2#16) v).setSp (s.sp - 2#16)) := by
  rw [push, writeWord_of_writable h, Res.map_ok]

/-- The stack pointer that P selects moves to the word stored, and the other one stays (46_stack_return.md R185). -/
theorem pushEffect_storeWord_setSp (s : State) (v pc : Word) :
    PushEffect v s (((s.storeWord (s.sp - 2#16) v).setSp (s.sp - 2#16)).setPc pc) := by
  have hbyte : MemKept (s.storeWord (s.sp - 2#16) v) (((s.storeWord (s.sp - 2#16) v).setSp (s.sp - 2#16)).setPc pc) :=
    byteAt_congr (by simp) (by simp)
  obtain ⟨hhi, hlo⟩ := wordStored_storeWord s (s.sp - 2#16) v
  refine ⟨by simp, ?ssp, ?usp, ⟨fun hr k => (hbyte k _).trans (hhi hr k), fun hr k => (hbyte k _).trans (hlo hr k)⟩,
    fun k b h0 h1 => (hbyte k b).trans (memKeptButWord_storeWord s (s.sp - 2#16) v k b h0 h1)⟩
  case ssp => cases hp : s.flag.p <;> simp [State.sp, hp]
  case usp => cases hp : s.flag.p <;> simp [State.sp, hp]

/-- Neither a store nor the stack pointer is in what `RestKept` names. -/
theorem restKept_storeWord_setSp (s : State) (a v sp pc : Word) : RestKept s (((s.storeWord a v).setSp sp).setPc pc) := by
  simp [RestKept]

/-- Settles O38: the target is read before the push, and the push of npc leaves what `PushEffect` says. -/
theorem callEffect : Obligations.CallEffect := by
  intro ea s target ht hw
  refine ⟨_, ?_, pushEffect_storeWord_setSp s _ target, rfl, by simp, restKept_storeWord_setSp s _ _ _ target⟩
  rw [exec_call_of_jumpTarget ht, push_of_writable hw, Res.map_ok, perform_ok (privAllowed_of_neverPrivileged rfl s)]

end Sys2Proof.Machine
end

-- Family 45_io.md: IN (R181) and OUT (R182).
section
/-! SUPPORT. An I/O read and an I/O write at an address that admits them, what each leaves unchanged, and so IN and OUT where the
privilege check lets them run (45_io.md R180 to R182). -/

namespace Sys2Proof.Machine

/-! ### The access -/

section
variable {s : State} {w : IoWidth} {port : Word}

theorem ioRead_of_addressable (h : IoAddressable w port) :
    ioRead s w port = .ok (ioValue s w port, s.logIo (.read port w (ioValue s w port))) := by
  rw [ioRead, ioCheck_of_addressable h, Res.map_ok]

theorem ioWrite_of_addressable (h : IoAddressable w port) (hro : ioHitsReadOnly w port = false) (v : Word) :
    ioWrite s w port v = .ok ((ioLimits s w port v).logIo (.write port w (ioDelivered w port v))) := by
  rw [ioWrite, ioCheck_of_addressable h, Res.bind_ok, if_neg (Bool.eq_false_iff.1 hro)]

end

/-- A word read is its two bytes, high byte first (20_memory.md R66). -/
theorem ioValue_of_word {s : State} {w : IoWidth} (hw : w = .word) (port : Word) :
    ioValue s w port = ioByte s port ++ ioByte s (port + 1#16) := by
  subst hw
  rfl

/-- A byte read is zero-extended (decision D6). -/
theorem ioValue_toNat_of_byte {s : State} {w : IoWidth} (hw : w = .byte) (port : Word) :
    (ioValue s w port).toNat = (ioByte s port).toNat := by
  subst hw
  exact BitVec.toNat_setWidth_of_le (by decide)

theorem zext8_loByte (v : Word) : zext8 (loByte v) = v &&& 0x00FF#16 := by
  have hlow : (zext8 (loByte v)).toNat = v.toNat % 2 ^ 8 := by
    rw [zext8, loByte, BitVec.toNat_setWidth_of_le (by decide), BitVec.extractLsb'_toNat, Nat.shiftRight_zero]
  apply BitVec.eq_of_toNat_eq
  rw [hlow, BitVec.toNat_and]
  exact (Nat.and_two_pow_sub_one_eq_mod v.toNat 8).symm

/-- A write to an 8-bit port drops bits 15:8, and so does a byte write to any port (20_memory.md R66; 45_io.md R182). -/
theorem ioDelivered_eq_ite (w : IoWidth) (port v : Word) :
    ioDelivered w port v = if w = .byte ∨ ioZeroByte port = true then v &&& 0x00FF#16 else v := by
  rw [← zext8_loByte]
  cases w with
  | byte => simp [ioDelivered]
  | word => simp [ioDelivered]

/-! ### What an I/O write leaves unchanged -/

section
variable {port : Word} (s : State) (w : IoWidth) (v : Word)

/-- Only F4h and F5h are addresses of the lower limit (60_exceptions.md R228). -/
theorem ioLimits_lowerLimit_of_ne (h4 : port ≠ 0xF4#16) (h5 : port ≠ 0xF5#16) :
    (ioLimits s w port v).lowerLimit = s.lowerLimit := by
  cases w with
  | word =>
    simp only [ioLimits, if_neg h4]
    split <;> rfl
  | byte =>
    simp only [ioLimits, if_neg (not_or.2 ⟨h4, h5⟩)]
    split <;> rfl

/-- Only F6h and F7h are addresses of the upper limit (60_exceptions.md R228). -/
theorem ioLimits_upperLimit_of_ne (h6 : port ≠ 0xF6#16) (h7 : port ≠ 0xF7#16) :
    (ioLimits s w port v).upperLimit = s.upperLimit := by
  cases w with
  | word =>
    simp only [ioLimits, if_neg h6]
    split <;> rfl
  | byte =>
    simp only [ioLimits, if_neg (not_or.2 ⟨h6, h7⟩)]
    split <;> rfl

end

/-! ### The instructions -/

/-- An event in the history changes neither the privilege check nor the PC the instruction goes on to. -/
theorem performSeq_writeReg_logIo {i : Instr} {s : State} {rd : Reg} (hp : privAllowed i s = true) (hrd : rd ≠ .pc)
    (e : IoEvent) (v : Word) :
    performSeq i s (writeReg (s.logIo e) rd v) = performSeq i (s.logIo e) (writeReg (s.logIo e) rd v) := by
  obtain ⟨u, hu⟩ := writeReg_isOk (s.logIo e) v hrd
  have hp' : privAllowed i (s.logIo e) = true := hp
  rw [hu, performSeq_ok hp, performSeq_ok hp']
  rfl

section
variable {rd : Reg} {ea : PortEA} {s : State} {port : Word} (ha : portAddr s ea = .ok port)
  (hmap : IoAddressable (PortEA.width ea) port)
include ha hmap

/-- Where IN is allowed and its address admits the read, it is a register write in the state whose history holds the read. -/
theorem exec_inp_of_addressable (hp : privAllowed (.inp rd ea) s = true) (hrd : rd ≠ .pc) :
    ∃ t, exec (.inp rd ea) s = .next t ∧ RegsAfterWrite rd (ioValue s (PortEA.width ea) port) s t ∧ t.flag = s.flag ∧
      t.pc = nextPc (.inp rd ea) s ∧ MemKept s t ∧
      RestKept (s.logIo (.read port (PortEA.width ea) (ioValue s (PortEA.width ea) port))) t := by
  change ∃ t, execInp rd ea s = .next t ∧ _
  rw [execInp, ha, Res.bind_ok, ioRead_of_addressable hmap, Res.bind_ok, performSeq_writeReg_logIo hp hrd]
  exact performSeq_writeReg (s := s.logIo _) hp hrd _

theorem exec_outp_of_addressable {v : Word} (hp : privAllowed (.outp rd ea) s = true) (hv : readReg s rd = .ok v)
    (hro : ioHitsReadOnly (PortEA.width ea) port = false) :
    exec (.outp rd ea) s = .next (((ioLimits s (PortEA.width ea) port v).logIo
      (.write port (PortEA.width ea) (ioDelivered (PortEA.width ea) port v))).setPc (nextPc (.outp rd ea) s)) := by
  change execOutp rd ea s = _
  rw [execOutp, hv, Res.bind_ok, ha, Res.bind_ok, ioWrite_of_addressable hmap hro, performSeq_ok hp]

end

/-- Settles O40: the oracle is the device's answer, and what IN changes is the history and then Rd, as a register write does. -/
theorem inEffect : Obligations.InEffect := by
  refine ⟨Config.ioAnswer, fun rd ea s port hp hrd ha hmap => ?_⟩
  obtain ⟨t, ht, hregs, hflag, hpc, hmem, hhalted, hirq, hlower, hupper, hlog, htick, hparams⟩ :=
    exec_inp_of_addressable ha hmap hp hrd
  exact ⟨t, _, ht, hregs, fun hw => ioValue_of_word hw port, fun hw => ioValue_toNat_of_byte hw port, hlog, hflag, hpc, hmem,
    hhalted, hirq, hlower, hupper, htick, hparams⟩

/-- Settles O41: what OUT changes is the history, and a limit register at that register's addresses alone. -/
theorem outEffect : Obligations.OutEffect := by
  intro rd ea s port v hp hv ha hmap hro
  obtain ⟨hgr, hssp, husp, -, hflag, hhalted, hirq, hmem, hlog, htick, hparams⟩ := ioLimits_frame s (PortEA.width ea) port v
  refine ⟨_, exec_outp_of_addressable ha hmap hp hv hro, ?log, ⟨fun n => congrArg (·[n]) hgr, hssp, husp⟩, hflag, rfl,
    byteAt_congr hmem htick, hhalted, hirq, htick, hparams, ioLimits_lowerLimit_of_ne s _ v, ioLimits_upperLimit_of_ne s _ v⟩
  rw [State.setPc_ioLog, State.logIo_ioLog, hlog, ioDelivered_eq_ite]

end Sys2Proof.Machine
end

-- Family 46_stack_return.md: PUSH, POP, RET and RETI (R185 to R189).
section
/-! SUPPORT. A pop and a return from a trap where the words can be read, what each leaves, and that a pop reads what a push has
stored (46_stack_return.md R185 to R189). -/

namespace Sys2Proof.Machine

/-! ### PUSH -/

/-- Settles O44: Rd is read before the push, and the push of its value leaves what `PushEffect` says. -/
theorem pushRegEffect : Obligations.PushRegEffect := by
  intro rd s v hp hv hw
  refine ⟨_, ?_, pushEffect_storeWord_setSp s v (nextPc (.push rd) s), by simp, rfl, restKept_storeWord_setSp s _ v _ _⟩
  rw [exec_push_of_readReg hv, push_of_writable hw, performSeq_ok hp]

/-! ### A pop, and POP and RET -/

section
variable (s : State) (d : Word)

theorem setSp_sp_add_ssp : (s.setSp (s.sp + d)).ssp = if s.flag.p = true then s.ssp + d else s.ssp := by
  cases hp : s.flag.p <;> simp [State.sp, hp]

theorem setSp_sp_add_usp : (s.setSp (s.sp + d)).usp = if s.flag.p = true then s.usp else s.usp + d := by
  cases hp : s.flag.p <;> simp [State.sp, hp]

theorem memKept_setSp (sp : Word) : MemKept s (s.setSp sp) :=
  byteAt_congr (State.setSp_mem s sp) (State.setSp_tick s sp)

theorem restKept_setSp (sp : Word) : RestKept s (s.setSp sp) := by simp [RestKept]

end

theorem RestKept.trans {s t u : State} (hst : RestKept s t) (htu : RestKept t u) : RestKept s u := by
  obtain ⟨hhalted, hirq, hlower, hupper, hlog, htick, hparams⟩ := hst
  obtain ⟨hhalted', hirq', hlower', hupper', hlog', htick', hparams'⟩ := htu
  exact ⟨hhalted'.trans hhalted, hirq'.trans hirq, hlower'.trans hlower, hupper'.trans hupper, hlog'.trans hlog,
    htick'.trans htick, hparams'.trans hparams⟩

section
variable {s : State} {v : Word} (hv : readWord s .stack s.sp = .ok v)
include hv

theorem pop_of_readWord : pop s = .ok (v, s.setSp (s.sp + 2#16)) := by
  rw [pop, hv, Res.map_ok]

/-- POP is a register write in the state whose stack pointer has moved up, so the popped word wins (46_stack_return.md R187). -/
theorem exec_pop_of_readWord {rd : Reg} (hp : privAllowed (.pop rd) s = true) (hrd : rd ≠ .pc) :
    ∃ t, exec (.pop rd) s = .next t ∧ RegsAfterWrite rd v (s.setSp (s.sp + 2#16)) t ∧ t.flag = s.flag ∧
      t.pc = s.pc + 2#16 ∧ MemKept s t ∧ RestKept s t := by
  obtain ⟨u, hu⟩ := writeReg_isOk (s.setSp (s.sp + 2#16)) v hrd
  have hexec : exec (.pop rd) s = .next (u.setPc (nextPc (.pop rd) s)) := by
    change execPop rd s = _
    rw [execPop, pop_of_readWord hv, Res.bind_ok, hu, performSeq_ok hp]
  have hflag : u.flag = s.flag := (writeReg_flag hu).trans (State.setSp_flag s _)
  have hmem : MemKept s u := fun k b => (writeReg_memKept hu k b).trans (memKept_setSp s _ k b)
  have hrest : RestKept s u := (restKept_setSp s _).trans (writeReg_restKept hu)
  have hregs : RegsAfterWrite rd v (s.setSp (s.sp + 2#16)) u := writeReg_regsAfterWrite hu
  exact ⟨_, hexec, hregs, hflag, rfl, hmem, hrest⟩

theorem exec_ret_of_readWord (hp : privAllowed .ret s = true) :
    exec .ret s = .next ((s.setSp (s.sp + 2#16)).setPc v) := by
  change execRet s = _
  rw [execRet, pop_of_readWord hv, Res.map_ok, perform_ok hp]

end

/-- Settles O45: POP is one register write above the word it reads. -/
theorem popRegEffect : Obligations.PopRegEffect := by
  intro rd s v hp hrd hv
  obtain ⟨t, ht, ⟨hgr, hssp, husp⟩, hflag, hpc, hmem, hrest⟩ := exec_pop_of_readWord hv hp hrd
  rw [setSp_sp_add_ssp, State.setSp_flag] at hssp
  rw [setSp_sp_add_usp, State.setSp_flag] at husp
  rw [State.setSp_gr] at hgr
  exact ⟨t, ht, hgr, hssp, husp, hflag, hpc, hmem, hrest⟩

/-- Settles O46: RET moves the stack pointer and PC. -/
theorem retEffect : Obligations.RetEffect := by
  intro s v hp hv
  exact ⟨_, exec_ret_of_readWord hv hp, rfl, by simp, setSp_sp_add_ssp s _, setSp_sp_add_usp s _, State.setSp_flag s _,
    memKept_setSp s _, restKept_setSp s _⟩

/-! ### RETI -/

section
variable (mask : Word) (old : Flags) (f : Word)

theorem retiFlags_cond : (retiFlags mask old f).v = f.getLsbD 3 ∧ (retiFlags mask old f).c = f.getLsbD 2 ∧
    (retiFlags mask old f).s = f.getLsbD 1 ∧ (retiFlags mask old f).z = f.getLsbD 0 := by
  unfold retiFlags
  split <;> exact ⟨rfl, rfl, rfl, rfl⟩

theorem retiFlags_of_privileged (hp : old.p = true) : retiFlags mask old f = Flags.ofWord f := if_pos hp

/-- From user mode a system flag is loaded only where the mask names it (decision D25). -/
theorem retiFlags_system_of_user (hp : old.p = false) :
    (retiFlags mask old f).e = (if mask.getLsbD 7 = true then f.getLsbD 7 else old.e) ∧
      (retiFlags mask old f).p = (if mask.getLsbD 6 = true then f.getLsbD 6 else old.p) ∧
      (retiFlags mask old f).i = (if mask.getLsbD 5 = true then f.getLsbD 5 else old.i) := by
  rw [retiFlags, if_neg (Bool.eq_false_iff.1 hp)]
  exact ⟨rfl, rfl, rfl⟩

end

theorem recommended_userRetiMask_getLsbD (k : Nat) : Params.recommended.userRetiMask.getLsbD k = false :=
  BitVec.getLsbD_zero

theorem exec_reti_of_readWord {s : State} {f v : Word} (hp : privAllowed .reti s = true)
    (hf : readWord s .stack s.sp = .ok f) (hv : readWord s .stack (s.sp + 2#16) = .ok v) :
    exec .reti s =
      .next (((s.setSp (s.sp + 4#16)).setFlag (retiFlags s.params.userRetiMask s.flag f)).setPc v) := by
  change execReti s = _
  rw [execReti, trapReturn, hf, Res.bind_ok, hv, Res.map_ok, perform_ok hp]

/-- Settles O47: both words come from the stack of the old P, and FLAG is `retiFlags` of the first. -/
theorem retiEffect : Obligations.RetiEffect := by
  intro s f v hp hf hv
  obtain ⟨hfv, hfc, hfs, hfz⟩ := retiFlags_cond s.params.userRetiMask s.flag f
  refine ⟨_, exec_reti_of_readWord hp hf hv, rfl, by simp, setSp_sp_add_ssp s _, setSp_sp_add_usp s _, hfv, hfc, hfs, hfz,
    fun hpriv => ?privileged, fun huser => ?user, memKept_setSp s _, restKept_setSp s _⟩
  case privileged =>
    rw [State.setPc_flag, State.setFlag_flag, retiFlags_of_privileged _ _ f hpriv]
    exact ⟨rfl, rfl, rfl⟩
  case user =>
    obtain ⟨he, hp, hi⟩ := retiFlags_system_of_user s.params.userRetiMask s.flag f huser
    refine ⟨he, hp, hi, fun hmask => ?_⟩
    have hnone (k : Nat) : ¬ s.params.userRetiMask.getLsbD k = true := by
      rw [hmask, recommended_userRetiMask_getLsbD]
      decide
    exact ⟨he.trans (if_neg (hnone 7)), hp.trans (if_neg (hnone 6)), hi.trans (if_neg (hnone 5))⟩

/-! ### A pop after a push -/

/-- The privilege check looks at P, at I and at PRIV_SET (60_exceptions.md R216, R217). -/
theorem privAllowed_congr {s t : State} (hflag : t.flag = s.flag) (hrest : RestKept s t) (i : Instr) :
    privAllowed i t = privAllowed i s := by
  obtain ⟨-, -, -, -, -, -, hparams⟩ := hrest
  rw [privAllowed, hflag, hparams, privAllowed]

theorem denied_congr {s t : State} (hflag : t.flag = s.flag) (hrest : RestKept s t) (k : AccessKind) (a : Word) :
    denied t k a = denied s k a := by
  obtain ⟨-, -, hlower, hupper, -, -, hparams⟩ := hrest
  rw [denied, hflag, hlower, hupper, hparams, denied]

section
variable {s t : State} {v : Word} (hpush : PushEffect v s t) (hflag : t.flag = s.flag)
include hpush hflag

theorem sp_of_pushEffect : t.sp = s.sp - 2#16 := by
  obtain ⟨-, hssp, husp, -⟩ := hpush
  cases hp : s.flag.p <;> simp [State.sp, hflag, hssp, husp, hp]

theorem readWord_of_pushEffect (hrest : RestKept s t) (hallowed : WordAllowed s .stack (s.sp - 2#16))
    (hattr : regionOf (s.sp - 2#16).toNat ≠ .attrib) : readWord t .stack t.sp = .ok v := by
  rw [sp_of_pushEffect hpush hflag]
  obtain ⟨heven, hhi, hlo⟩ := hallowed
  obtain ⟨-, -, -, hstored, -⟩ := hpush
  have hallowed' : WordAllowed t .stack (s.sp - 2#16) :=
    ⟨heven, (denied_congr hflag hrest _ _).trans hhi, (denied_congr hflag hrest _ _).trans hlo⟩
  exact readWord_of_wordStored hallowed' hattr hstored

/-- The pop's increment takes back the push's decrement. -/
theorem regsKept_setSp_of_pushEffect : RegsKept s (t.setSp (t.sp + 2#16)) := by
  obtain ⟨hgr, hssp, husp, -⟩ := hpush
  refine ⟨by simpa using hgr, ?ssp, ?usp⟩
  case ssp =>
    rw [setSp_sp_add_ssp, hflag, hssp]
    split
    · exact BitVec.sub_add_cancel ..
    · rfl
  case usp =>
    rw [setSp_sp_add_usp, hflag, husp]
    split
    · rfl
    · exact BitVec.sub_add_cancel ..

end

/-- Writing back what a register held leaves every register as it was. -/
theorem regsKept_of_writeBack {s t u : State} {rd : Reg} {v : Word} (hv : readReg s rd = .ok v) (hkept : RegsKept s t)
    (hflag : t.flag = s.flag) (hwrite : RegsAfterWrite rd v t u) : RegsKept s u := by
  obtain ⟨hgr, hssp, husp⟩ := hkept
  obtain ⟨hgr', hssp', husp'⟩ := hwrite
  rw [hflag] at hssp' husp'
  obtain ⟨n, rfl, rfl⟩ | ⟨rfl, rfl⟩ | ⟨rfl, rfl⟩ := readReg_eq_ok hv
  case inl =>
    refine ⟨fun k => ?_, by simp [hssp', hssp], by simp [husp', husp]⟩
    rw [hgr', hgr]
    split
    case isTrue heq => rw [Reg.g.inj heq]
    case isFalse => rfl
  case inr.inl =>
    cases hp : s.flag.p <;>
      exact ⟨by simp [hgr', hgr], by simp [hssp', hssp, State.sp, hp], by simp [husp', husp, State.sp, hp]⟩
  case inr.inr => exact ⟨by simp [hgr', hgr], by simp [hssp', hssp], by simp [husp']⟩

/-! ### Instructions that complete have pushed -/

theorem ne_pc_of_exec_push {s t : State} {rd : Reg} (hp : privAllowed (.push rd) s = true)
    (h : exec (.push rd) s = .next t) : rd ≠ .pc := by
  rintro rfl
  have hrefused : exec (.push .pc) s = .refused .pcOperand := performSeq_refused hp _
  rw [hrefused] at h
  cases h

theorem jumpTarget_of_usesPc (s : State) {ea : JumpEA} (h : ea.usesPc = true) :
    jumpTarget s ea = .refused .pcOperand := by
  cases ea with
  | drct dsp => cases h
  | idx dsp rx | indr rx =>
    obtain rfl : rx = .pc := eq_of_beq h
    rfl

theorem usesPc_of_exec_call {s t : State} {ea : JumpEA} (h : exec (.call ea) s = .next t) : ea.usesPc = false := by
  refine Bool.eq_false_iff.2 fun hpc => ?_
  have hrefused : exec (.call ea) s = .refused .pcOperand := by
    change execCall ea s = _
    rw [execCall, jumpTarget_of_usesPc s hpc, Res.bind_refused, perform_refused (privAllowed_of_neverPrivileged rfl s)]
  rw [hrefused] at h
  cases h

section
variable {s t : State} (hallowed : WordAllowed s .stack (s.sp - 2#16))
include hallowed

theorem wordWritable_of_exec_push {rd : Reg} (hp : privAllowed (.push rd) s = true) (h : exec (.push rd) s = .next t) :
    WordWritable s .stack (s.sp - 2#16) := by
  refine ⟨hallowed, fun hrom => ?_⟩
  obtain ⟨hlo, hhi⟩ := regionOf_eq_rom.1 hrom
  obtain ⟨-, hrefused, -⟩ := romWritesRefused s _ hlo hhi
  rw [hrefused rd (ne_pc_of_exec_push hp h) hp rfl hallowed] at h
  cases h

theorem wordWritable_of_exec_call {ea : JumpEA} (h : exec (.call ea) s = .next t) :
    WordWritable s .stack (s.sp - 2#16) := by
  refine ⟨hallowed, fun hrom => ?_⟩
  obtain ⟨hlo, hhi⟩ := regionOf_eq_rom.1 hrom
  obtain ⟨-, -, hrefused⟩ := romWritesRefused s _ hlo hhi
  rw [hrefused ea (usesPc_of_exec_call h) rfl hallowed] at h
  cases h

end

/-- Settles O39: the word pushed is the word popped; POP writes back to Rd what it held, and RET goes to the npc that CALL
pushed. -/
theorem popUndoesPush : Obligations.PopUndoesPush := by
  intro s t hallowed hattr
  refine ⟨fun rd hp hpop h => ?push, fun ea hret h => ?call⟩
  case push =>
    have hrd : rd ≠ .pc := ne_pc_of_exec_push hp h
    obtain ⟨v, hv⟩ := readReg_isOk s hrd
    obtain ⟨t', ht, hpush, hflag, -, hrest⟩ := pushRegEffect rd s v hp hv (wordWritable_of_exec_push hallowed hp h)
    obtain rfl : t' = t := Host.Outcome.next.inj (ht.symm.trans h)
    have hread : readWord t' .stack t'.sp = .ok v := readWord_of_pushEffect hpush hflag hrest hallowed hattr
    obtain ⟨u, hu, hregs, huflag, -, hmem, hurest⟩ :=
      exec_pop_of_readWord hread ((privAllowed_congr hflag hrest _).trans hpop) hrd
    have hkept : RegsKept s u := regsKept_of_writeBack hv (regsKept_setSp_of_pushEffect hpush hflag)
      ((State.setSp_flag t' _).trans hflag) hregs
    exact ⟨u, hu, hkept, huflag.trans hflag, hmem, hrest.trans hurest⟩
  case call =>
    obtain ⟨target, htarget⟩ := jumpTarget_isOk s (usesPc_of_exec_call h)
    obtain ⟨t', ht, hpush, -, hflag, hrest⟩ := callEffect ea s target htarget (wordWritable_of_exec_call hallowed h)
    obtain rfl : t' = t := Host.Outcome.next.inj (ht.symm.trans h)
    have hread : readWord t' .stack t'.sp = .ok (nextPc (.call ea) s) :=
      readWord_of_pushEffect hpush hflag hrest hallowed hattr
    exact ⟨_, exec_ret_of_readWord hread ((privAllowed_congr hflag hrest _).trans hret),
      regsKept_setSp_of_pushEffect hpush hflag, rfl, (State.setSp_flag t' _).trans hflag, memKept_setSp t' _,
      hrest.trans (restKept_setSp t' _)⟩

end Sys2Proof.Machine
end

-- Family 60_exceptions.md: the exceptions an instruction raises (R203, R204, R210, R216, R217).
section
/-! SUPPORT. Every instruction runs in one frame, so what the privilege check turns away, and what its effect raises, is one trap
entry from the state before it; the accesses that MEM_PROTECT denies, and the divisors 0000h (60_exceptions.md R203 to R217). -/

namespace Sys2Proof.Machine

/-! ### The frame of an instruction -/

/-- Every instruction makes the privilege check before its effect (60_exceptions.md R208 (6)). -/
theorem exec_eq_perform (i : Instr) (s : State) : ∃ effect, exec i s = perform i s effect := by
  cases i with
  | svc => exact ⟨.raise .svc, rfl⟩
  | _ => exact ⟨_, rfl⟩

section
variable {i : Instr} {s : State}

/-- An allowed instruction whose effect raises an exception changes nothing but by taking it (60_exceptions.md R213). -/
theorem perform_raise (hp : privAllowed i s = true) (e : Exc) :
    perform i s (.raise e) = takeExc e (some (nextPc i s)) s := by
  simp [perform, conclude, orStop, hp]

theorem performSeq_raise (hp : privAllowed i s = true) (e : Exc) :
    performSeq i s (.raise e) = takeExc e (some (nextPc i s)) s := perform_raise hp e

/-- What the privilege check turns away is trap entry through vector 13, whatever its effect (60_exceptions.md R216). -/
theorem exec_of_not_privAllowed (hp : privAllowed i s = false) :
    exec i s = trapEntry 13 (Config.faultPc .privilegeViolation s.pc (some (nextPc i s))) s := by
  obtain ⟨effect, heffect⟩ := exec_eq_perform i s
  rw [heffect]
  simp [perform, conclude, orStop, hp, takeExc, excVector, savedPc]

/-- An instruction that completes was allowed, or has been trapped. -/
theorem privAllowed_of_exec_next {t : State} (h : exec i s = .next t) :
    (∃ n spc, trapEntry n spc s = .next t) ∨ privAllowed i s = true := by
  cases hp : privAllowed i s with
  | true => exact .inr rfl
  | false => exact .inl ⟨13, _, (exec_of_not_privAllowed hp).symm.trans h⟩

end

/-! ### The privilege check -/

theorem isPortInstr_iff {i : Instr} : isPortInstr i = true ↔ ∃ rd ea, i = .inp rd ea ∨ i = .outp rd ea := by
  cases i with
  | inp rd ea => exact ⟨fun _ => ⟨rd, ea, .inl rfl⟩, fun _ => rfl⟩
  | outp rd ea => exact ⟨fun _ => ⟨rd, ea, .inr rfl⟩, fun _ => rfl⟩
  | _ => simp [isPortInstr, instrName]

theorem privAllowed_eq_false_iff {i : Instr} {s : State} :
    privAllowed i s = false ↔ inPrivSet s.params i = true ∧ s.flag.p = false ∧ ¬ (isPortInstr i = true ∧ s.flag.i = true) := by
  simp [privAllowed, and_assoc]

theorem inPrivSet_of_neverPrivileged {i : Instr} (h : neverPrivileged (instrName i) = true) (p : Params) :
    inPrivSet p i = false := by
  simp [inPrivSet, h]

theorem inPrivSet_recommended {i : Instr} :
    inPrivSet Params.recommended i = true ↔ isPortInstr i = true ∨ i = .ei ∨ i = .di ∨ i = .halt := by
  cases i <;> simp [inPrivSet, instrName, neverPrivileged, Params.recommended, isPortInstr]

/-- Settles O18: the check is its three conditions, and an instruction it turns away is trap entry. -/
theorem privilegeViolationRaised : Obligations.PrivilegeViolationRaised := by
  refine ⟨by decide, fun i s => ?check, fun i s => exec_of_not_privAllowed, fun i => ?recommended, fun p rd ea j i hi => ?never⟩
  case check => rw [privAllowed_eq_false_iff, isPortInstr_iff]
  case recommended => rw [inPrivSet_recommended, isPortInstr_iff]
  case never =>
    -- The spec's list holds rows that are never privileged, whatever their operands are.
    have hrow : neverPrivileged (instrName i) = true := List.all_eq_true (p := fun i => neverPrivileged (instrName i)).1 rfl i hi
    exact inPrivSet_of_neverPrivileged hrow p

/-! ### A divisor 0000h -/

theorem divEffect_of_zero {rd : Reg} {ea : EA} {s : State} (hrd : rd ≠ .pc) (hb : operand s ea = .ok 0#16)
    (f : Word → Word → Word) : divEffect rd ea s f = .raise .zeroDivide := by
  obtain ⟨a, ha⟩ := readReg_isOk s hrd
  rw [divEffect, ha, Res.bind_ok, hb, Res.bind_ok, if_pos rfl]

theorem ne_pc_of_isPairLow {rd : Reg} (h : rd.isPairLow = true) : rd ≠ .pc := by
  rintro rfl; cases h

/-- Settles O17: the divisor is read and found zero before anything is written. -/
theorem zeroDivideRaised : Obligations.ZeroDivideRaised := by
  refine ⟨by decide, fun rd ea s hb => ⟨fun hrd => ⟨?div, ?mod⟩, fun hpair => ?divl⟩⟩
  case div =>
    change execDiv rd ea s = _
    rw [execDiv, divEffect_of_zero hrd hb, performSeq_raise (privAllowed_of_neverPrivileged rfl s)]
    rfl
  case mod =>
    change execMod rd ea s = _
    rw [execMod, divEffect_of_zero hrd hb, performSeq_raise (privAllowed_of_neverPrivileged rfl s)]
    rfl
  case divl =>
    obtain ⟨n, hn⟩ := pairHigh_of_isPairLow hpair
    obtain ⟨low, hlow⟩ := readReg_isOk s (ne_pc_of_isPairLow hpair)
    have hhigh : readReg s (.g n) = .ok s.gr[n] := rfl
    change execDivl rd ea s = _
    rw [execDivl, hn, Res.bind_ok, hhigh, Res.bind_ok, hlow, Res.bind_ok, hb, Res.bind_ok, if_pos rfl,
      performSeq_raise (privAllowed_of_neverPrivileged rfl s)]
    rfl

/-! ### Accesses that MEM_PROTECT denies -/

/-- The recommended MEM_PROTECT: outside the inclusive limits, in user mode only (20_memory.md R69). -/
theorem denied_recommended {s : State} (h : s.params.memProtect = .recommended) (k : AccessKind) (a : Word) :
    denied s k a = true ↔ s.flag.p = false ∧ (a.toNat < s.lowerLimit.toNat ∨ s.upperLimit.toNat < a.toNat) := by
  simp [denied, memProtect, h]

/-- An even word access is denied when one of its two bytes is (20_memory.md R69; decision D38). -/
def WordDenied (s : State) (k : AccessKind) (a : Word) : Prop :=
  isOdd a = false ∧ ∃ b, (b = a ∨ b = a + 1#16) ∧ denied s k b = true

section
variable {s : State} {k : AccessKind} {a : Word} (h : WordDenied s k a)
include h

theorem wordDenied_or : (denied s k a || denied s k (a + 1#16)) = true := by
  obtain ⟨-, b, rfl | rfl, hb⟩ := h <;> simp [hb]

theorem readWord_of_denied : readWord s k a = .raise .limitViolation := by
  simp [readWord, h.1, wordDenied_or h]

theorem writeWord_of_denied (v : Word) : writeWord s k a v = .raise .limitViolation := by
  simp [writeWord, h.1, wordDenied_or h]

end

section
variable {s : State}

/-- The first word is fetched before its length is known, so no npc goes into FAULT_PC (60_exceptions.md R212). -/
theorem step_of_fetch_denied (hf : AboutToFetch s) (h : WordDenied s .fetch s.pc) :
    step s = settle (trapEntry 11 (Config.faultPc .limitViolation s.pc none) s) := by
  have hfetch : fetch s = .error (takeExc .limitViolation none s) := by
    simp [fetch, readWord_of_denied h, orStop, Except.bind]
  exact step_of_fetch_error hf hfetch

theorem step_of_second_fetch_denied {w1 : Word} (hf : AboutToFetch s) (h1 : readWord s .fetch s.pc = .ok w1)
    (htwo : needsSecondWord w1 = some true) (h : WordDenied s .fetch (s.pc + 2#16)) :
    step s = settle (trapEntry 11 (Config.faultPc .limitViolation s.pc (some (s.pc + 4#16))) s) := by
  have hfetch : fetch s = .error (takeExc .limitViolation (some (s.pc + 4#16)) s) := by
    simp [fetch, h1, htwo, readWord_of_denied h, orStop, Except.bind]
  exact step_of_fetch_error hf hfetch

theorem push_of_denied (h : WordDenied s .stack (s.sp - 2#16)) (v : Word) : push s v = .raise .limitViolation := by
  rw [push, writeWord_of_denied h, Res.map_raise]

theorem pop_of_denied (h : WordDenied s .stack s.sp) : pop s = .raise .limitViolation := by
  rw [pop, readWord_of_denied h, Res.map_raise]

/-- A return makes two reads, the second where the first answers (46_stack_return.md R189). -/
theorem trapReturn_of_denied (h : WordDenied s .stack s.sp ∨
    ((∃ f, readWord s .stack s.sp = .ok f) ∧ WordDenied s .stack (s.sp + 2#16))) :
    trapReturn s = .raise .limitViolation := by
  obtain h | ⟨⟨f, hf⟩, h⟩ := h
  · rw [trapReturn, readWord_of_denied h, Res.bind_raise]
  · rw [trapReturn, hf, Res.bind_ok, readWord_of_denied h, Res.map_raise]

theorem readByte_of_denied {k : AccessKind} {a : Word} (h : denied s k a = true) :
    readByte s k a = .raise .limitViolation := by
  simp [readByte, h]

theorem writeByte_of_denied {k : AccessKind} {a : Word} (h : denied s k a = true) (v : Byte) :
    writeByte s k a v = .raise .limitViolation := by
  simp [writeByte, h]

/-- A two-operand instruction whose operand is denied (41_arith_logic.md R131). -/
theorem exec_twoOperand_of_denied {row : Nat} {mk : Reg → EA → Instr} (hmk : twoOperand row = some mk) {rd : Reg} {ea : EA}
    (hwf : (mk rd ea).wellFormed = true) (hp : privAllowed (mk rd ea) s = true)
    (h : operand s ea = .raise .limitViolation) :
    exec (mk rd ea) s = takeExc .limitViolation (some (nextPc (mk rd ea) s)) s := by
  obtain ⟨k, hexec⟩ := exec_twoOperand_eq hmk hwf s
  rw [hexec, h, Res.bind_raise, performSeq_raise hp]

/-- ST whose write is denied (40_no_load_store.md R124). -/
theorem exec_st_of_denied {rd : Reg} {m : MemEA} (hrd : rd ≠ .pc) (hp : privAllowed (.st rd m) s = true)
    (h : ∀ v, storeMem s m v = .raise .limitViolation) :
    exec (.st rd m) s = takeExc .limitViolation (some (nextPc (.st rd m) s)) s := by
  obtain ⟨v, hv⟩ := readReg_isOk s hrd
  rw [exec_st_of_readReg hv, h, performSeq_raise hp]

theorem byteLen_twoOperand_bindr {row : Nat} {mk : Reg → EA → Instr} (h : twoOperand row = some mk) (rd rx : Reg) :
    (mk rd (.mem (.bindr rx))).byteLen = 2 := by
  unfold twoOperand at h
  split at h <;> cases h <;> rfl

end

/-- Settles O19: each access is checked before anything is changed, and what it raises is trap entry through vector 11. -/
theorem limitViolationRaised : Obligations.LimitViolationRaised := by
  refine ⟨fun s k a h => denied_recommended h k a, by decide, fun s a b => ⟨fun heven hb => ?word, ?loadByte, ?storeByte⟩⟩
  case word =>
    have hword {k : AccessKind} (hd : denied s k b = true) : WordDenied s k a := ⟨heven, b, hb, hd⟩
    refine ⟨?fetch, ?secondWord, ?load, ?store, fun hd => ⟨?pop, ?push, ?call, ?ret, ?reti⟩⟩
    case fetch =>
      rintro hd hf rfl
      exact step_of_fetch_denied hf (hword hd)
    case secondWord =>
      rintro w1 hd hf h1 htwo rfl
      exact step_of_second_fetch_denied hf h1 htwo (hword hd)
    case load =>
      intro row mk rd m hd hmk hwf hp hwidth ha
      exact exec_twoOperand_of_denied hmk hwf hp ((operand_word hwidth ha).trans (readWord_of_denied (hword hd)))
    case store =>
      intro rd m hd hrd hp hwidth ha
      exact exec_st_of_denied hrd hp fun v => (storeMem_word hwidth ha v).trans (writeWord_of_denied (hword hd) v)
    case pop =>
      rintro rd hp rfl
      change performSeq (.pop rd) s ((pop s).bind _) = _
      rw [pop_of_denied (hword hd), Res.bind_raise, performSeq_raise hp]
      rfl
    case push =>
      rintro rd hrd hp rfl
      obtain ⟨v, hv⟩ := readReg_isOk s hrd
      rw [exec_push_of_readReg hv, push_of_denied (hword hd), performSeq_raise hp]
      rfl
    case call =>
      rintro ea hea rfl
      obtain ⟨target, htarget⟩ := jumpTarget_isOk s hea
      rw [exec_call_of_jumpTarget htarget, push_of_denied (hword hd), Res.map_raise,
        perform_raise (privAllowed_of_neverPrivileged rfl s)]
      rfl
    case ret =>
      rintro hp rfl
      change perform .ret s ((pop s).map _) = _
      rw [pop_of_denied (hword hd), Res.map_raise, perform_raise hp]
      rfl
    case reti =>
      intro hp ha
      have hdenied : WordDenied s .stack s.sp ∨
          ((∃ f, readWord s .stack s.sp = .ok f) ∧ WordDenied s .stack (s.sp + 2#16)) := by
        obtain rfl | ⟨rfl, hf⟩ := ha
        · exact .inl (hword hd)
        · exact .inr ⟨hf, hword hd⟩
      change perform .reti s (trapReturn s) = _
      rw [trapReturn_of_denied hdenied, perform_raise hp]
      rfl
  case loadByte =>
    intro row mk rd rx hd hmk hwf hp hrx
    have hop : operand s (.mem (.bindr rx)) = .raise .limitViolation := by
      simp [operand, loadMem, effAddr, hrx, MemEA.isByte, readByte_of_denied hd]
    rw [exec_twoOperand_of_denied hmk hwf hp hop, nextPc, byteLen_twoOperand_bindr hmk]
    rfl
  case storeByte =>
    intro rd rx hd hrd hp hrx
    exact exec_st_of_denied hrd hp fun v => (storeMem_byte (m := .bindr rx) rfl hrx v).trans (writeByte_of_denied hd _)

end Sys2Proof.Machine
end

-- Family 60_exceptions.md: trap entry and the return from it (R211, R214, R215), and the interrupt check (R206, R209).
section
/-! SUPPORT. The frame that trap entry pushes on the system stack, when it can be made and what it leaves; that RETI finds it
again; and which interrupt is taken before a fetch (60_exceptions.md R206 to R215). -/

namespace Sys2Proof.Machine

/-! ### When trap entry can be made -/

/-- The state with the trap frame on the system stack, in privileged mode with E clear, before the vector word is read
(60_exceptions.md R211). -/
def State.pushTrapFrame (s : State) (spc : Word) : State :=
  (((s.storeWord (s.ssp - 2#16) spc).storeWord (s.ssp - 4#16) s.flag.toWord).setFlag (trapFlags s.flag)).setSsp (s.ssp - 4#16)

/-- Pushing the frame is two stores, as far as memory goes. -/
theorem memKept_pushTrapFrame (s : State) (spc : Word) :
    MemKept ((s.storeWord (s.ssp - 2#16) spc).storeWord (s.ssp - 4#16) s.flag.toWord) (s.pushTrapFrame spc) :=
  byteAt_congr (by simp [State.pushTrapFrame]) (by simp [State.pushTrapFrame])

theorem sub_two_sub_two (a : Word) : a - 2#16 - 2#16 = a - 4#16 := by bv_omega

theorem isOdd_vectorAddr (n : Fin 16) : isOdd (vectorAddr n) = false := by
  revert n; decide

/-- An access in a privileged state with the limits and parameters of `s` is checked as trap entry in `s` checks it. -/
theorem wordAllowed_system {s u : State} (hp : u.flag.p = true) (hrest : RestKept s u) {k : AccessKind} {a : Word} :
    WordAllowed u k a ↔ isOdd a = false ∧ SystemAllowed s k a := by
  obtain ⟨-, -, hlower, hupper, -, -, hparams⟩ := hrest
  rw [WordAllowed, denied_system hp hparams hlower hupper, denied_system hp hparams hlower hupper, SystemAllowed]

theorem trapEntry_restKept {n : Fin 16} {spc : Word} {s t : State} (h : trapEntry n spc s = .next t) : RestKept s t := by
  obtain ⟨-, -, -, -, hhalted, hirq, hlower, hupper, hlog, htick, hparams, -⟩ := trapEntry_next h
  exact ⟨hhalted, hirq, hlower, hupper, hlog, htick, hparams⟩

/-- A push of trap entry: in a privileged state with the limits and parameters of `s` it is a store below SSP, checked as trap
entry in `s` is (60_exceptions.md R211). -/
theorem push_of_system {s u : State} (hp : u.flag.p = true) (hrest : RestKept s u) (heven : isOdd (u.ssp - 2#16) = false)
    (hallowed : SystemAllowed s .stack (u.ssp - 2#16)) (hrom : regionOf (u.ssp - 2#16).toNat ≠ .rom) (v : Word) :
    push u v = .ok ((u.storeWord (u.ssp - 2#16) v).setSsp (u.ssp - 2#16)) := by
  have hw : WordWritable u .stack (u.sp - 2#16) := by
    rw [sp_of_privileged hp]
    exact ⟨(wordAllowed_system hp hrest).2 ⟨heven, hallowed⟩, hrom⟩
  rw [push_of_writable hw, sp_of_privileged hp, setSp_of_privileged (s := u.storeWord _ v) hp]

/-- Where its accesses can be made, trap entry pushes its frame and loads PC with the vector word (60_exceptions.md R211). -/
theorem trapEntry_of_trapReady {n : Fin 16} {spc : Word} {s : State} (h : TrapReady n spc s) :
    ∃ handler, trapEntry n spc s = .next ((s.pushTrapFrame spc).setPc handler) := by
  obtain ⟨heven, hrom, hrom', hallowed, hallowed', hvector, hi, lo, hhi, hlo⟩ := h
  have heven2 : isOdd (s.ssp - 2#16) = false := (isOdd_sub_two _).trans heven
  have heven4 : isOdd (s.ssp - 2#16 - 2#16) = false := (isOdd_sub_two _).trans heven2
  rw [← sub_two_sub_two] at hrom' hallowed'
  have hpush := push_of_system (s := s) (u := s.setFlag (trapFlags s.flag)) rfl (by simp [RestKept]) heven2 hallowed hrom spc
  have hpush' := push_of_system (s := s)
    (u := ((s.setFlag (trapFlags s.flag)).storeWord (s.ssp - 2#16) spc).setSsp (s.ssp - 2#16)) rfl (by simp [RestKept])
    heven4 hallowed' hrom' s.flag.toWord
  have hread : readWord (s.pushTrapFrame spc) .vector (vectorAddr n) = .ok (wordOfBytes hi lo) :=
    readWord_of_allowed ((wordAllowed_system (s := s) rfl (by simp [RestKept, State.pushTrapFrame])).2
      ⟨isOdd_vectorAddr n, hvector⟩) ((memKept_pushTrapFrame s spc _ _).trans hhi) ((memKept_pushTrapFrame s spc _ _).trans hlo)
  refine ⟨wordOfBytes hi lo, ?_⟩
  rw [State.pushTrapFrame, ← sub_two_sub_two] at hread ⊢
  rw [trapEntry_eq_next, trapSteps, hpush, Res.bind_ok, State.setFlag_ssp, hpush', Res.bind_ok]
  exact congrArg (Res.map · _) hread

theorem trapEntry_next_or_fault (n : Fin 16) (spc : Word) (s : State) :
    (∃ t, trapEntry n spc s = .next t) ∨ trapEntry n spc s = .fault .trapEntry := by
  unfold trapEntry
  cases trapSteps n spc s with
  | ok t => exact .inl ⟨t, rfl⟩
  | raise e => exact .inr rfl
  | fault f => exact .inr rfl
  | refused r => exact .inr rfl

section
variable {n : Fin 16} {spc : Word} {s t : State} (h : trapEntry n spc s = .next t)
include h

/-- Memory after trap entry: the frame, and nothing else, has been written (60_exceptions.md R211). -/
theorem memKept_of_trapEntry :
    MemKept ((s.storeWord (s.ssp - 2#16) spc).storeWord (s.ssp - 4#16) s.flag.toWord) t := by
  obtain ⟨-, -, -, -, -, -, -, -, -, htick, -, -, -, -, -, hmem⟩ := trapEntry_next h
  rw [sub_two_sub_two] at hmem
  intro k b
  refine byteAt_congr hmem ?_ k b
  rw [htick, State.storeWord_tick, State.storeWord_tick]

/-- The PC that trap entry loads is the vector word, read once the frame is written (60_exceptions.md R211). -/
theorem pc_of_trapEntry : ∃ hi lo, byteAt t .vector (vectorAddr n) = .ok hi ∧
    byteAt t .vector (vectorAddr n + 1#16) = .ok lo ∧ t.pc = hi ++ lo := by
  obtain ⟨s1, s2, v, -, -, hv, rfl⟩ := trapSteps_eq_ok (trapEntry_eq_next.1 h)
  obtain ⟨-, -, -, hi, lo, hhi, hlo, rfl⟩ := readWord_eq_ok hv
  exact ⟨hi, lo, hhi, hlo, rfl⟩

/-- Trap entry that is made could be made. -/
theorem trapReady_of_trapEntry : TrapReady n spc s := by
  obtain ⟨-, -, -, -, -, -, -, -, -, -, -, hrom, hrom', heven, -⟩ := trapEntry_next h
  obtain ⟨hallowed, hallowed', hvector⟩ := trapEntry_allowed h
  obtain ⟨hi, lo, hhi, hlo, -⟩ := pc_of_trapEntry h
  rw [memKept_of_trapEntry h] at hhi hlo
  rw [sub_two_sub_two] at hrom' hallowed'
  exact ⟨(isOdd_sub_two _).symm.trans heven, hrom, hrom', hallowed, hallowed', hvector, hi, lo, hhi, hlo⟩

/-! ### What trap entry leaves -/

/-- The two words of the frame lie side by side, so the second store leaves the first word (60_exceptions.md R211). -/
theorem wordStored_of_trapEntry :
    WordStored (s.ssp - 2#16) spc t ∧ WordStored (s.ssp - 4#16) s.flag.toWord t := by
  have hkept : ∀ k b, byteAt t k b = _ := memKept_of_trapEntry h
  refine ⟨?_, ?_⟩
  · have hapart : ∀ k, byteAt t k (s.ssp - 2#16) = byteAt (s.storeWord (s.ssp - 2#16) spc) k (s.ssp - 2#16) ∧
        byteAt t k (s.ssp - 2#16 + 1#16) = byteAt (s.storeWord (s.ssp - 2#16) spc) k (s.ssp - 2#16 + 1#16) := fun k =>
      ⟨(hkept k _).trans (byteAt_storeWord_ne _ _ k (by bv_omega) (by bv_omega)),
        (hkept k _).trans (byteAt_storeWord_ne _ _ k (by bv_omega) (by bv_omega))⟩
    obtain ⟨hhi, hlo⟩ := wordStored_storeWord s (s.ssp - 2#16) spc
    exact ⟨fun hr k => (hapart k).1.trans (hhi hr k), fun hr k => (hapart k).2.trans (hlo hr k)⟩
  · obtain ⟨hhi, hlo⟩ := wordStored_storeWord (s.storeWord (s.ssp - 2#16) spc) (s.ssp - 4#16) s.flag.toWord
    exact ⟨fun hr k => (hkept k _).trans (hhi hr k), fun hr k => (hkept k _).trans (hlo hr k)⟩

theorem memKeptButFrame_of_trapEntry : MemKeptButFrame s t := by
  intro k b h1 h2 h3 h4
  rw [memKept_of_trapEntry h, byteAt_storeWord_ne _ _ k h4 (by bv_omega), byteAt_storeWord_ne _ _ k h2 (by bv_omega)]

theorem trapEffect_of_trapEntry : TrapEffect n spc s t := by
  obtain ⟨hgr, husp, hssp, hflag, -⟩ := trapEntry_next h
  obtain ⟨hpc, hfl⟩ := wordStored_of_trapEntry h
  obtain ⟨hi, lo, hhi, hlo, htarget⟩ := pc_of_trapEntry h
  have hsecond : vectorAddr n + 1#16 = 0xFFE1#16 + BitVec.ofNat 16 (2 * n.val) := by rw [vectorAddr]; bv_omega
  rw [hsecond] at hlo
  exact ⟨fun m => congrArg (·[m]) hgr, husp, hssp.trans (sub_two_sub_two _), hflag, hpc, hfl, memKeptButFrame_of_trapEntry h,
    trapEntry_restKept h, hi, lo, hhi, hlo, htarget⟩

end

/-- Settles O15: the accesses of trap entry are those that `TrapReady` names, so it is made exactly then. -/
theorem trapEntryEffect : Obligations.TrapEntryEffect := by
  refine fun n spc s => ⟨fun hready => ?_, fun hno => ?_⟩
  · obtain ⟨handler, ht⟩ := trapEntry_of_trapReady hready
    exact ⟨_, ht, trapEffect_of_trapEntry ht⟩
  · refine (trapEntry_next_or_fault n spc s).resolve_left ?_
    rintro ⟨t, ht⟩
    exact hno (trapReady_of_trapEntry ht)

/-! ### RETI after trap entry -/

/-- FLAG as a word loses nothing of FLAG (10_state.md R28, R30). -/
@[simp] theorem Flags.ofWord_toWord (f : Flags) : Flags.ofWord f.toWord = f := by
  rw [Flags.ofWord]
  simp only [flagLayout f]
  rfl

section
variable {n : Fin 16} {spc : Word} {s t : State} (h : trapEntry n spc s = .next t)
include h

theorem sp_of_trapEntry : t.sp = s.ssp - 4#16 := by
  obtain ⟨-, -, hssp, -⟩ := trapEffect_of_trapEntry h
  rw [sp_of_privileged (trapEntry_privileged h), hssp]

/-- What RETI reads of the frame is what trap entry pushed; the accesses are checked as the pushes were. -/
theorem readWord_of_trapEntry {a v : Word} (heven : isOdd a = false) (hallowed : SystemAllowed s .stack a)
    (hr : regionOf a.toNat ≠ .attrib) (hstored : WordStored a v t) : readWord t .stack a = .ok v :=
  readWord_of_wordStored ((wordAllowed_system (trapEntry_privileged h) (trapEntry_restKept h)).2 ⟨heven, hallowed⟩) hr hstored

end

/-- Settles O16: RETI reads the frame back from the system stack, and SSP goes up by what it went down. -/
theorem retiUndoesTrapEntry : Obligations.RetiUndoesTrapEntry := by
  intro n spc s t h hpcRegion hflagRegion
  have hp : t.flag.p = true := trapEntry_privileged h
  obtain ⟨heven, -, -, hpcAllowed, hflagAllowed, -⟩ := trapReady_of_trapEntry h
  obtain ⟨hgr, husp, hssp, -, hpcStored, hflagStored, -, hrest, -⟩ := trapEffect_of_trapEntry h
  have heven2 : isOdd (s.ssp - 2#16) = false := (isOdd_sub_two _).trans heven
  have heven4 : isOdd (s.ssp - 4#16) = false := by rw [← sub_two_sub_two]; exact (isOdd_sub_two _).trans heven2
  have hnext : t.sp + 2#16 = s.ssp - 2#16 := by rw [sp_of_trapEntry h]; bv_omega
  have hflag : readWord t .stack t.sp = .ok s.flag.toWord := by
    rw [sp_of_trapEntry h]
    exact readWord_of_trapEntry h heven4 hflagAllowed hflagRegion hflagStored
  have hpc : readWord t .stack (t.sp + 2#16) = .ok spc := by
    rw [hnext]
    exact readWord_of_trapEntry h heven2 hpcAllowed hpcRegion hpcStored
  refine ⟨_, exec_reti_of_readWord (privAllowed_of_privileged hp) hflag hpc, ⟨by simpa using hgr, ?ssp, ?usp⟩, ?flag, rfl,
    memKept_setSp t _, hrest.trans (restKept_setSp t _)⟩
  case ssp =>
    rw [State.setPc_ssp, State.setFlag_ssp, setSp_sp_add_ssp, if_pos hp, hssp]
    exact BitVec.sub_add_cancel ..
  case usp => rw [State.setPc_usp, State.setFlag_usp, setSp_sp_add_usp, if_pos hp, husp]
  case flag => rw [State.setPc_flag, State.setFlag_flag, retiFlags_of_privileged _ _ _ hp, Flags.ofWord_toWord]

/-! ### The interrupt check -/

theorem mem_irqSources (n : Fin 10) : n ∈ irqSources := by
  revert n; decide

/-- IRQ_PRIORITY chooses among the pending sources (60_exceptions.md R221). -/
theorem selectIrq_pending {irq : BitVec 10} {n : Fin 10} (h : selectIrq irq = some n) : irq.getLsbD n.val = true := by
  have hpending {m : Fin 10} (hm : m ∈ irqSources.filter fun n => irq.getLsbD n.val) : irq.getLsbD m.val = true :=
    (List.mem_filter.1 hm).2
  unfold selectIrq at h
  split at h
  case h_1 => cases h
  case h_2 m hlist =>
    obtain rfl : m = n := Option.some.inj h
    exact hpending (by rw [hlist]; exact List.mem_cons_self)
  case h_3 m m' rest hlist =>
    split at h
    case isTrue hprio =>
      obtain rfl := Option.some.inj h
      exact hprio
    case isFalse =>
      obtain rfl : m = n := Option.some.inj h
      exact hpending (by rw [hlist]; exact List.mem_cons_self)

/-- No source is taken exactly when none is pending. -/
theorem selectIrq_eq_none {irq : BitVec 10} : selectIrq irq = none ↔ irq = 0#10 := by
  refine ⟨fun h => ?_, fun h => by subst h; rfl⟩
  have hnil : irqSources.filter (fun n => irq.getLsbD n.val) = [] := by
    unfold selectIrq at h
    split at h
    case h_1 hlist => exact hlist
    case h_2 => cases h
    case h_3 => split at h <;> cases h
  refine BitVec.eq_of_getLsbD_eq fun k hk => ?_
  have hclear := List.filter_eq_nil_iff.1 hnil ⟨k, hk⟩ (mem_irqSources _)
  simpa using hclear

theorem step_of_interrupt {s : State} {n : Fin 10} (hh : s.halted = false) (h : pendingInterrupt s = some n) :
    step s = settle (takeInterrupt n s) := by
  simp [step, cpuStep, hh, h]

/-- Settles O12: the check asks E and then the pending bits. -/
theorem interruptCheck : Obligations.InterruptCheck := by
  intro s hh
  have hon (he : s.flag.e = true) : pendingInterrupt s = selectIrq s.irq := if_pos he
  have hoff (he : s.flag.e = false) : pendingInterrupt s = none := if_neg (Bool.eq_false_iff.1 he)
  refine ⟨hoff, fun hirq => ?idle, fun n hn => ?taken, fun he hirq => ?pending⟩
  case idle =>
    cases he : s.flag.e with
    | true => rw [hon he, selectIrq_eq_none.2 hirq]
    | false => exact hoff he
  case taken =>
    cases he : s.flag.e with
    | true => exact ⟨rfl, selectIrq_pending ((hon he).symm.trans hn)⟩
    | false => rw [hoff he] at hn; cases hn
  case pending =>
    obtain ⟨n, hn⟩ := Option.ne_none_iff_exists'.1 (mt selectIrq_eq_none.1 hirq)
    exact ⟨n, selectIrq_pending hn, step_of_interrupt hh ((hon he).trans hn)⟩

end Sys2Proof.Machine
end

-- Family 60_exceptions.md: the modes of the processor (R218, R219) and the limit registers (R228).
section
/-! SUPPORT. What a step can do to P, E and I, to the halt bit, to the I/O space and to memory, by the mode it is made in; and the
two ports behind which the limits stand (60_exceptions.md R218, R219, R228). -/

namespace Sys2Proof.Machine

/-! ### P, E and I -/

/-- RETI, when it completes: FLAG from the word that the stack pointer of P names (46_stack_return.md R189). -/
theorem exec_reti_next {s t : State} (h : exec .reti s = .next t) :
    (∃ n spc, trapEntry n spc s = .next t) ∨
      ∃ f, readWord s .stack s.sp = .ok f ∧ t.flag = retiFlags s.params.userRetiMask s.flag f := by
  obtain ⟨-, heffect⟩ | ⟨e, htrap, -⟩ := perform_next (show perform .reti s (trapReturn s) = .next t from h)
  · obtain ⟨f, pc, hf, -, rfl⟩ := trapReturn_eq_ok heffect
    exact .inr ⟨f, hf, rfl⟩
  · exact .inl ⟨_, _, htrap⟩

/-- Beside trap entry and RETI no instruction changes P (60_exceptions.md R219). -/
theorem exec_changes_p {i : Instr} {s t : State} (h : exec i s = .next t) (hne : t.flag.p ≠ s.flag.p) :
    (∃ n spc, trapEntry n spc s = .next t) ∨
      i = .reti ∧ ∃ f, readWord s .stack s.sp = .ok f ∧ t.flag = retiFlags s.params.userRetiMask s.flag f := by
  by_cases hi : i = .reti
  · subst hi
    exact (exec_reti_next h).imp_right fun hf => ⟨rfl, hf⟩
  · obtain htrap | ⟨-, -, hkept⟩ := flagWriters i s t h
    · exact .inl htrap
    · obtain ⟨hp, -⟩ := hkept hi
      exact absurd hp hne

/-- The same for a step, which leaves FLAG to the CPU's part of it. -/
theorem step_changes_p {s t : State} (h : step s = .next t) (hne : t.flag.p ≠ s.flag.p) :
    (∃ n spc u, trapEntry n spc s = .next u ∧ t = endStep u) ∨
      pendingInterrupt s = none ∧ fetch s = .ok .reti ∧
        ∃ f, readWord s .stack s.sp = .ok f ∧ t.flag = retiFlags s.params.userRetiMask s.flag f := by
  obtain ⟨-, u, rfl, ⟨n, spc, htrap⟩ | ⟨hirq, i, hfetch, hexec⟩⟩ := step_next h
  · exact .inl ⟨n, spc, u, htrap, rfl⟩
  · obtain ⟨n, spc, htrap⟩ | ⟨rfl, hf⟩ := exec_changes_p hexec hne
    · exact .inl ⟨n, spc, u, htrap, rfl⟩
    · exact .inr ⟨hirq, hfetch, hf⟩

/-- Settles O54: a step that changes P is trap entry, which sets it, or RETI, which loads it from the word it pops. -/
theorem modeChanges : Obligations.ModeChanges := by
  refine ⟨recommended_userRetiMask_getLsbD 6, fun s t h => ⟨fun hs ht => ?rises, fun hs ht => ?falls⟩⟩
  case rises =>
    obtain htrap | ⟨hirq, hfetch, f, hf, hflag⟩ := step_changes_p h (by simp [hs, ht])
    · exact .inl htrap
    · obtain ⟨-, hp, -⟩ := retiFlags_system_of_user s.params.userRetiMask s.flag f hs
      rw [← hflag, ht, hs] at hp
      rw [sp_of_user hs] at hf
      split at hp
      case isTrue hmask => exact .inr ⟨hmask, hirq, hfetch, f, hf, hp.symm⟩
      case isFalse => cases hp
  case falls =>
    obtain ⟨n, spc, u, htrap, rfl⟩ | ⟨hirq, hfetch, f, hf, hflag⟩ := step_changes_p h (by simp [hs, ht])
    · rw [endStep_flag, trapEntry_privileged htrap] at ht
      cases ht
    · rw [retiFlags_of_privileged _ _ f hs] at hflag
      rw [sp_of_privileged hs] at hf
      rw [hflag] at ht
      exact ⟨hirq, hfetch, f, hf, ht⟩

/-! ### What an instruction leaves unchanged -/

/-- Beside HALT, and IN and OUT, where the privilege check lets them run, no instruction reaches what `RestKept` names. -/
theorem Effect.restKept {i : Instr} {s t : State} (h : Effect i s t) :
    RestKept s t ∨ (i = .halt ∧ privAllowed i s = true) ∨
      (isPortInstr i = true ∧ privAllowed i s = true ∧ t.halted = s.halted) := by
  cases h with
  | trap n spc h => exact .inl (trapEntry_restKept h)
  | reg u rd v f pc hw ht =>
    have hrest : RestKept s u := writeReg_restKept hw
    subst ht; exact .inl hrest
  | pair u u' rd rd' v v' f pc hw hw' ht =>
    have hrest : RestKept s u' := (writeReg_restKept hw).trans (writeReg_restKept hw')
    subst ht; exact .inl hrest
  | halt hp ht hi => exact .inr (.inl ⟨hi, hp⟩)
  | pop sp' rd v u pc hw ht =>
    obtain ⟨-, rfl⟩ | ⟨r, -, hw⟩ := hw
    · exact .inl (by simp [ht, RestKept])
    · have hrest : RestKept s u := (restKept_setSp s sp').trans (writeReg_restKept hw)
      subst ht; exact .inl hrest
  | plain f pc ht | enable e pc hp ht | reti hi f v hf hv ht | push v pc hw ht | storeWord a v pc hw ht
  | storeByte a v pc hw hr ht =>
    exact .inl (by simp [ht, RestKept])
  | inp rd ea e v u pc hi hp hw ht =>
    obtain ⟨-, -, hhalted, -⟩ := writeReg_frame hw
    exact .inr (.inr ⟨isPortInstr_iff.2 ⟨rd, ea, .inl hi⟩, hp, by simpa [ht] using hhalted⟩)
  | outp rd ea e w a v pc hi hp ht =>
    obtain ⟨-, -, -, -, -, hhalted, -⟩ := ioLimits_frame s w a v
    exact .inr (.inr ⟨isPortInstr_iff.2 ⟨rd, ea, .inr hi⟩, hp, by simpa [ht] using hhalted⟩)

section
variable {s : State} {k : AccessKind} {b : Word} (hb : denied s k b = true)
include hb

/-- A store of a byte that MEM_PROTECT allows does not reach a byte it denies (20_memory.md R69). -/
theorem storeByte_get_of_denied {a : Word} (h : denied s k a = false) (v : Byte) :
    (s.storeByte a v).mem.get b.toNat = s.mem.get b.toNat := by
  have hne : b ≠ a := by rintro rfl; simp [hb] at h
  exact Memory.get_store_ne _ _ _ fun heq => hne (BitVec.eq_of_toNat_eq heq)

theorem storeWord_get_of_denied {a : Word} (h : WordAllowed s k a) (v : Word) :
    (s.storeWord a v).mem.get b.toNat = s.mem.get b.toNat := by
  obtain ⟨-, hhi, hlo⟩ := h
  have hb' : denied (s.storeByte a (hiByte v)) k b = true := hb
  exact (storeByte_get_of_denied hb' hlo _).trans (storeByte_get_of_denied hb hhi _)

end

/-- Beside trap entry, whose accesses are made in privileged mode, no instruction changes a byte that MEM_PROTECT denies to writes
and to the stack (20_memory.md R69). -/
theorem Effect.mem_of_denied {i : Instr} {s t : State} (h : Effect i s t) :
    (∃ n spc, trapEntry n spc s = .next t) ∨ ∀ b : Word, denied s .write b = true → denied s .stack b = true →
      t.mem.get b.toNat = s.mem.get b.toNat := by
  cases h with
  | trap n spc h => exact .inl ⟨n, spc, h⟩
  | push v pc hw ht =>
    refine .inr fun b _ hstack => ?_
    rw [ht, State.setPc_mem, State.setSp_mem]
    obtain ⟨hallowed, -⟩ := hw
    exact storeWord_get_of_denied hstack hallowed v
  | storeWord a v pc hw ht =>
    refine .inr fun b hwrite _ => ?_
    rw [ht, State.setPc_mem]
    obtain ⟨hallowed, -⟩ := hw
    exact storeWord_get_of_denied hwrite hallowed v
  | storeByte a v pc hw hr ht =>
    refine .inr fun b hwrite _ => ?_
    rw [ht, State.setPc_mem]
    exact storeByte_get_of_denied hwrite hw v
  | plain f pc ht | enable e pc hp ht | halt hp ht | reti hi f v hf hv ht | outp rd ea e w a v pc hi hp ht =>
    exact .inr fun b _ _ => by simp [ht]
  | reg u rd v f pc hw ht | inp rd ea e v u pc hi hp hw ht =>
    exact .inr fun b _ _ => by simp [ht, writeReg_mem hw]
  | pair u u' rd rd' v v' f pc hw hw' ht => exact .inr fun b _ _ => by simp [ht, writeReg_mem hw', writeReg_mem hw]
  | pop sp' rd v u pc hw ht =>
    obtain ⟨-, rfl⟩ | ⟨r, -, hw⟩ := hw
    · exact .inr fun b _ _ => by simp [ht]
    · exact .inr fun b _ _ => by simp [ht, writeReg_mem hw]

/-! ### User mode with the recommended parameters -/

section
variable {i : Instr} {s t : State} (hrec : s.params = Params.recommended) (hs : s.flag.p = false)
include hrec hs

/-- In user mode the recommended PRIV_SET turns away EI, DI and HALT, and with I = 0 IN and OUT (60_exceptions.md R216, R217). -/
theorem not_privileged_of_user (hp : privAllowed i s = true) :
    i ≠ .ei ∧ i ≠ .di ∧ i ≠ .halt ∧ (isPortInstr i = true → s.flag.i = true) := by
  have hturned (hmem : inPrivSet s.params i = true) : isPortInstr i = true ∧ s.flag.i = true := by
    by_contra hno
    rw [privAllowed_eq_false_iff.2 ⟨hmem, hs, hno⟩] at hp
    cases hp
  rw [hrec, inPrivSet_recommended] at hturned
  refine ⟨?_, ?_, ?_, fun hport => (hturned (.inl hport)).2⟩ <;>
    (rintro rfl; simp [isPortInstr, instrName] at hturned)

/-- The recommended USER_RETI_MASK names none of E, P and I (46_stack_return.md R189). -/
theorem systemFlagsKept_of_reti {f : Word} (hflag : t.flag = retiFlags s.params.userRetiMask s.flag f) :
    SystemFlagsKept s t := by
  obtain ⟨he, hp, hi⟩ := retiFlags_system_of_user s.params.userRetiMask s.flag f hs
  rw [hrec, recommended_userRetiMask_getLsbD] at he hp hi
  rw [SystemFlagsKept, hflag, hrec]
  exact ⟨he, hp, hi⟩

theorem systemFlagsKept_of_user (h : exec i s = .next t) (hno : ¬ ∃ n spc, trapEntry n spc s = .next t) :
    SystemFlagsKept s t := by
  by_cases hreti : i = .reti
  · subst hreti
    obtain ⟨f, -, hflag⟩ := (exec_reti_next h).resolve_left hno
    exact systemFlagsKept_of_reti hrec hs hflag
  · obtain ⟨hei, hdi, -⟩ := not_privileged_of_user hrec hs ((privAllowed_of_exec_next h).resolve_left hno)
    obtain ⟨-, he, hpi⟩ := (flagWriters i s t h).resolve_left hno
    exact ⟨he hei hdi hreti, hpi hreti⟩

end

/-- In user mode no instruction writes SSP: the step with another value in SSP ends in the same state but for that value, and the
value may be the one it has (10_state.md R25). -/
theorem ssp_of_user_step {s t : State} (h : step s = .next t) (hs : s.flag.p = false) (ht : t.flag.p = false) :
    t.ssp = s.ssp := by
  have hsame : step s = .next (t.setSsp s.ssp) := step_setSsp s.ssp h hs ht
  have ht' : t = t.setSsp s.ssp := Host.Outcome.next.inj (h.symm.trans hsame)
  rw [ht', State.setSsp_ssp]

/-- A step that stays in user mode takes no trap, so it is one instruction. -/
theorem step_next_user {s t : State} (h : step s = .next t) (ht : t.flag.p = false) :
    s.halted = false ∧ ∃ i u, t = endStep u ∧ exec i s = .next u ∧ ¬ ∃ n spc, trapEntry n spc s = .next u := by
  obtain ⟨hhalted, u, rfl, hcpu⟩ := step_next h
  have hno : ¬ ∃ n spc, trapEntry n spc s = .next u := by
    rintro ⟨n, spc, htrap⟩
    rw [endStep_flag, trapEntry_privileged htrap] at ht
    cases ht
  obtain ⟨-, i, -, hexec⟩ := hcpu.resolve_left hno
  exact ⟨hhalted, i, u, rfl, hexec, hno⟩

/-- Settles O55: the one instruction of the step makes its accesses, and its privilege check, in user mode. -/
theorem userModeConfined : Obligations.UserModeConfined := by
  intro s t h hs ht
  have hssp : t.ssp = s.ssp := ssp_of_user_step h hs ht
  obtain ⟨hhalted, i, u, rfl, hexec, hno⟩ := step_next_user h ht
  have heffect : Effect i s u := exec_effect hexec
  have hmem := heffect.mem_of_denied.resolve_left hno
  refine ⟨hssp, hmem, fun hrec => ⟨?system, ?halted, fun a ha => ?limits, fun hi => ?io⟩⟩
  case system => exact systemFlagsKept_of_user (t := u) hrec hs hexec hno
  case halted =>
    rw [endStep_halted, ← hhalted]
    obtain ⟨hkept, -⟩ | ⟨rfl, hp⟩ | ⟨-, -, hkept⟩ := heffect.restKept
    · exact hkept
    · obtain ⟨-, -, hne, -⟩ := not_privileged_of_user hrec hs hp
      exact absurd rfl hne
    · exact hkept
  case limits =>
    have hdenied (k : AccessKind) : denied s k a = true := (denied_recommended (by rw [hrec]; rfl) k a).2 ⟨hs, ha⟩
    exact hmem a (hdenied .write) (hdenied .stack)
  case io =>
    obtain ⟨-, -, hlower, hupper, hlog, -⟩ | ⟨rfl, hp⟩ | ⟨hport, hp, -⟩ := heffect.restKept
    · exact ⟨hlog, hlower, hupper⟩
    · obtain ⟨-, -, hne, -⟩ := not_privileged_of_user hrec hs hp
      exact absurd rfl hne
    · obtain ⟨-, -, -, hon⟩ := not_privileged_of_user hrec hs hp
      rw [hon hport] at hi
      cases hi

/-! ### The limit registers -/

/-- The ports of the two limits are even addresses of the map (60_exceptions.md R228). -/
theorem ioAddressable_limitPort {port : Word} (h : port = 0xF4#16 ∨ port = 0xF6#16) (w : IoWidth) : IoAddressable w port := by
  obtain rfl | rfl := h <;> simp [IoAddressable, isOdd]

/-- A 16-bit OUT to the port of a limit, where it is allowed, is the write of that limit (60_exceptions.md R228). -/
theorem exec_outp_limitPort {s : State} {rd : Reg} {ea : PortEA} {port v : Word} (hp : privAllowed (.outp rd ea) s = true)
    (hv : readReg s rd = .ok v) (hw : PortEA.width ea = .word) (ha : portAddr s ea = .ok port)
    (hport : port = 0xF4#16 ∨ port = 0xF6#16) :
    ∃ t, exec (.outp rd ea) s = .next t ∧ t.lowerLimit = (ioLimits s .word port v).lowerLimit ∧
      t.upperLimit = (ioLimits s .word port v).upperLimit := by
  have hro : ioHitsReadOnly (PortEA.width ea) port = false := by
    rw [hw]
    obtain rfl | rfl := hport <;> decide
  refine ⟨_, exec_outp_of_addressable ha (ioAddressable_limitPort hport _) hp hv hro, ?_, ?_⟩ <;> (rw [hw]; rfl)

/-- Settles O42: what OUT leaves in the limits is what `ioLimits` writes, the check reads them, and the oracle is the device's
answer, which a port that is no "00H" byte hands on. -/
theorem limitRegisters : Obligations.LimitRegisters := by
  refine ⟨fun rd ea s v hp hv hw => ⟨fun ha => ?lower, fun ha => ?upper⟩, fun s k a => rfl, Config.ioAnswer,
    fun rd ea s port hp hrd hw ha hport => ?inp⟩
  case lower => exact exec_outp_limitPort hp hv hw ha (.inl rfl)
  case upper =>
    obtain ⟨t, ht, hlower, hupper⟩ := exec_outp_limitPort hp hv hw ha (.inr rfl)
    exact ⟨t, ht, hupper, hlower⟩
  case inp =>
    obtain ⟨t, ht, hregs, -⟩ := exec_inp_of_addressable ha (ioAddressable_limitPort hport _) hp hrd
    rw [ioValue_of_word hw] at hregs
    refine ⟨t, ht, ?_⟩
    obtain rfl | rfl := hport <;> exact hregs

end Sys2Proof.Machine
end

-- Family 47_system.md: EI, DI, SVC and HALT (R193 to R197).
section
/-! SUPPORT. EI, DI and HALT where the privilege check lets them run, and SVC as trap entry (47_system.md R193 to R197). -/

namespace Sys2Proof.Machine

/-- Settles O48: the effect of each is one bit of FLAG. -/
theorem eiDiEffect : Obligations.EiDiEffect :=
  fun _ => ⟨fun hp => performSeq_ok hp, fun hp => performSeq_ok hp⟩

/-- SVC is never privileged, and its whole effect is to raise its exception (47_system.md R195). -/
theorem exec_svc (s : State) : exec .svc s = trapEntry 15 (s.pc + 2#16) s :=
  perform_raise (i := .svc) (privAllowed_of_neverPrivileged rfl s) .svc

/-- Settles O49: what the trap entry of SVC leaves is what every trap entry leaves. -/
theorem svcEffect : Obligations.SvcEffect := by
  intro s hready
  obtain ⟨hmade, -⟩ := trapEntryEffect 15 (s.pc + 2#16) s
  rw [exec_svc]
  exact hmade hready

/-- Settles O50: HALT sets the halt bit, which a step asks first. -/
theorem haltEffect : Obligations.HaltEffect :=
  fun _ => ⟨fun hp => performSeq_ok hp, fun hh => if_pos hh⟩

end Sys2Proof.Machine
end
